-- ==== Sys2Proof/Word.lean ====
section
/-! DEFINITION. The word types of the block: every access moves one byte (spec 20_memory.md R67), memory
addresses are 16 bits wide (R62), port numbers 8 bits (R65), the interrupt vector 3 bits (00_scope.md R7). -/

namespace Sys2Proof

/-- One byte, the only data width of the block (R67). -/
abbrev Byte := BitVec 8

/-- A 16-bit memory address (R62). -/
abbrev Addr := BitVec 16

/-- An 8-bit port number (R65). -/
abbrev Port := BitVec 8

/-- The 3-bit index the encoder puts on the interrupt line (R133). -/
abbrev Vector3 := BitVec 3

end Sys2Proof
end

