-- ==== Sys2Proof/Machine/Memory.lean ====
section
/-! DEFINITION. A byte array as a list of (address, byte) pairs in one canonical form: addresses strictly rising,
no entry equal to what an unlisted address reads as. RAM, ROM, the sector buffer, the keyboard ring and the disk
images are all held this way (spec 10_state.md R21, R22, R35, R38, R40). -/

namespace Sys2Proof.Machine

/-- A byte array, sparse: one cell for each address that does not read as `Memory.blank`. -/
abbrev Memory := List Host.Cell

/-- What an unlisted address reads as. The buffer and the keyboard ring are zero at reset (R35, R40); for RAM the
spec leaves the contents open (R21, P_INIT_RAM). DESIGN CHOICE, unsafe: 0x00 (log entry 5). -/
def Memory.blank : Byte := 0

/-- The byte at address `a`. -/
def Memory.read : Memory → Nat → Byte
  | [], _ => Memory.blank
  | (k, v) :: t, a => if k = a then v else Memory.read t a

/-- The array with byte `v` at address `a`; writing the blank byte drops the entry, so the canonical form stays. -/
def Memory.write : Memory → Nat → Byte → Memory
  | [], a, v => if v = Memory.blank then [] else [(a, v)]
  | (k, w) :: t, a, v =>
    if a < k then (if v = Memory.blank then (k, w) :: t else (a, v) :: (k, w) :: t)
    else if a = k then (if v = Memory.blank then t else (a, v) :: t)
    else (k, w) :: Memory.write t a v

/-- The canonical form from address `lo` on: addresses strictly rising from `lo`, no blank byte listed. -/
def Memory.wfFrom : Nat → Memory → Bool
  | _, [] => true
  | lo, (k, v) :: t => decide (lo ≤ k) && decide (v ≠ Memory.blank) && Memory.wfFrom (k + 1) t

/-- The canonical form of a byte array. -/
def Memory.wf (m : Memory) : Bool := Memory.wfFrom 0 m

/-- Every listed address lies below `n`. -/
def Memory.below (n : Nat) (m : Memory) : Bool := m.all fun c => decide (c.1 < n)

/-- The `n` bytes of `m` from offset `off` on, moved to start at address 0. -/
def Memory.slice (m : Memory) (off n : Nat) : Memory :=
  m.filterMap fun c => if off ≤ c.1 ∧ c.1 < off + n then some (c.1 - off, c.2) else none

/-- The first `n` bytes of `src` over the bytes of `dst`: bytes `n` and above stay those of `dst`. -/
def Memory.overlay (src : Memory) (n : Nat) (dst : Memory) : Memory :=
  (src.filter fun c => decide (c.1 < n)) ++ (dst.filter fun c => decide (n ≤ c.1))

/-- The array that holds the bytes of a list from address `at` on. -/
def Memory.ofBytesFrom : Nat → List Byte → Memory
  | _, [] => []
  | a, b :: bs =>
    if b = Memory.blank then Memory.ofBytesFrom (a + 1) bs else (a, b) :: Memory.ofBytesFrom (a + 1) bs

/-- The array that holds the bytes of a list from address 0 on. -/
def Memory.ofBytes (bs : List Byte) : Memory := Memory.ofBytesFrom 0 bs

/-- Any list of cells brought to canonical form over the addresses below `size`; the first cell of an address
counts, as `Memory.read` reads it. -/
def Memory.normalize (size : Nat) : List Host.Cell → Memory
  | [] => []
  | (k, v) :: t => if k < size then Memory.write (Memory.normalize size t) k v else Memory.normalize size t

end Sys2Proof.Machine
end

