-- ==== Sys2Proof/Config.lean ====
section
/-! DEFINITION. What an implementation fixes (the P_ parameters of spec 00_scope.md R8, held as plain data), what
the collaborators can do (R11-R17), and the free values: opaque constants with no body, one for everything the
spec leaves to a collaborator or to an OPEN parameter without a default. -/

namespace Sys2Proof

open Sys2Proof.Machine (Memory)

/-- The thirteen port handlers of spec 30_encoding.md R91. -/
inductive Handler where
  | ctrl | psgData | psgAddr | hcca | kbd | vdpData | vdpCtrl | par
  | fdcCmdStat | fdcTrack | fdcSector | fdcData | fdcSel
  deriving DecidableEq, Repr

/-- The classes P_CMD_DECODE maps command bytes to (30_encoding.md R96). -/
inductive CmdClass where
  | restore | readSector | status | irqAck | diag | other
  deriving DecidableEq, Repr

/-- One row of P_CMD_DECODE: the command bytes `c` with `c &&& mask = pat` belong to `cls`. The first row that
matches decides; a byte no row matches is OTHER, so any map of the 256 bytes to the classes can be written. -/
structure CmdRow where
  mask : Byte
  pat : Byte
  cls : CmdClass
  deriving DecidableEq, Repr

/-- P_CTRL_BITS: the bit positions of the control register's fields (10_state.md R24). -/
structure CtrlBits where
  romdis : Fin 8
  strobe : Fin 8
  led0 : Fin 8
  led1 : Fin 8
  led2 : Fin 8
  deriving DecidableEq, Repr

/-- The three disk geometries, known by the image's length (10_state.md R38): 204800, 409600, 819200 bytes. -/
inductive Geometry where
  | ss200 | ds400 | ds800
  deriving DecidableEq, Repr

/-- The two drives (00_scope.md R7). -/
inductive DriveId where
  | d0 | d1
  deriving DecidableEq, Repr

/-- The four request flags of the Interrupt Arbiter (10_state.md R26). -/
inductive Flag where
  | rx | tx | key | vblank
  deriving DecidableEq, Repr

/-- The parameters of the step (00_scope.md R8, 10_state.md R48). No operation changes them. -/
structure Params where
  /-- P_PORTMAP, R90: the handler of each mapped port. -/
  portMap : List (Port × Handler)
  /-- P_UNMAPPED_READ, R66. -/
  unmappedRead : Byte
  /-- P_CTRL_BITS, R24. -/
  ctrlBits : CtrlBits
  /-- P_CMD_DECODE, R96. -/
  cmdDecode : List CmdRow
  /-- P_SPT of the 200K geometry, R99. -/
  spt200 : Nat
  /-- P_SPT of the 400K geometry, R99. -/
  spt400 : Nat
  /-- P_SPT of the 800K geometry, R99. -/
  spt800 : Nat
  /-- P_RATE_CODE, R97. -/
  rateCode : Byte
  /-- P_CRC_PLACEHOLDER[0], R97. -/
  crc0 : Byte
  /-- P_CRC_PLACEHOLDER[1], R97. -/
  crc1 : Byte
  /-- P_SYNC_PATTERN, 38 bytes, R98. -/
  syncPattern : List Byte
  /-- P_INDEX_PERIOD, at least 1, R230. -/
  indexPeriod : Nat
  /-- P_CYCLES_PER_SLICE, at least 1, R272. -/
  cyclesPerSlice : Nat
  /-- P_SLICES_PER_FRAME, at least 1, R271. -/
  slicesPerFrame : Nat
  /-- P_VISIBLE_FIRST, R270. -/
  visibleFirst : Nat
  /-- P_VISIBLE_COUNT, R270. -/
  visibleCount : Nat
  /-- P_WATCHDOG_SLICES, at least 1, R268. -/
  watchdogSlices : Nat
  /-- P_KEEPALIVE_CODE, R268. -/
  keepaliveCode : Byte
  /-- P_INIT_RAM, R21. -/
  initRam : Memory
  /-- Whether a parallel output sink is attached, R16. -/
  sinkAttached : Bool
  deriving DecidableEq, Repr

/-- The byte array a host hands to ROM_LOAD or INSERT: its length, and its bytes, sparse (a byte not listed is
0x00). Any length can be offered; the operation decides (R240, R322). -/
structure RawImage where
  size : Nat
  data : Memory
  deriving DecidableEq, Repr

/-- One access the CPU collaborator makes through its hooks (00_scope.md R11). -/
inductive BusAccess where
  | memRead (a : Addr)
  | memWrite (a : Addr) (v : Byte)
  | portRead (p : Port)
  | portWrite (p : Port) (v : Byte)
  deriving DecidableEq, Repr

/-- An action of the host or of the input collaborator that may fall between two accesses of a CPU phase
(00_scope.md R15, R17; 92_eei_decisions.md D50). -/
inductive HostAct where
  | keyPush (b : Byte)
  | txe (v : Bool)
  | insert (d : Byte) (img : Option RawImage)
  | eject (d : Byte)
  | stop
  deriving DecidableEq, Repr

/-- What happens inside one CPU step: accesses, and outside actions between them. -/
inductive CpuAct where
  | bus (a : BusAccess)
  | host (h : HostAct)
  deriving DecidableEq, Repr

/-- One step of the CPU collaborator (R11, R262): a finite sequence of acts, and a cost of `extra + 1` cycles,
so that every step costs at least one cycle. -/
structure CpuStep where
  acts : List CpuAct
  extra : Nat
  deriving DecidableEq, Repr, Inhabited

/-- FREE VALUE: the n-th byte a collaborator answers when none stands in the state's answer list (00_scope.md R9
`draw()`, D43; log entry 11). -/
opaque Config.freeByte : Nat → Byte

/-- FREE VALUE: the n-th Bool a collaborator answers (R266, R271; log entry 11). -/
opaque Config.freeBool : Nat → Bool

/-- FREE VALUE: the n-th step of the CPU collaborator (R11, R262, U7; log entry 12). -/
opaque Config.freeCpuStep : Nat → CpuStep

/-- OPEN, no default (D21): P_RATE_CODE at `State.reset`. -/
opaque Config.rateCode : Byte

/-- OPEN, no default (D21): byte i of P_SYNC_PATTERN at `State.reset`. -/
opaque Config.syncByte : Nat → Byte

/-- OPEN (D25): P_INDEX_PERIOD - 1 at `State.reset`; the period is at least 1. -/
opaque Config.indexPeriodPred : Nat

/-- OPEN (D30): P_CYCLES_PER_SLICE - 1 at `State.reset`. -/
opaque Config.cyclesPerSlicePred : Nat

/-- OPEN (D30): P_SLICES_PER_FRAME - 1 at `State.reset`. -/
opaque Config.slicesPerFramePred : Nat

/-- OPEN (D30): P_VISIBLE_FIRST at `State.reset`. -/
opaque Config.visibleFirst : Nat

/-- OPEN (D30): P_VISIBLE_COUNT at `State.reset`. -/
opaque Config.visibleCount : Nat

/-- OPEN (D31): P_WATCHDOG_SLICES - 1 at `State.reset`. -/
opaque Config.watchdogSlicesPred : Nat

/-- OPEN (D31): P_KEEPALIVE_CODE at `State.reset`. -/
opaque Config.keepaliveCode : Byte

/-- Configuration (R16): whether a parallel sink is attached, at `State.reset`. -/
opaque Config.sinkAttached : Bool

end Sys2Proof
end

