-- ==== Sys2Proof/Machine/PortMap.lean ====
section
/-! DEFINITION. Reading the parameters: the port decoder's lookup (spec 30_encoding.md R90), the command decode
(R96), the well-formedness of the parameters (R8, D5, D49), and the default bindings (R91, R24, R96). -/

namespace Sys2Proof.Machine

/-- The handler of a port: an exact match of the whole port number against the map's entries (R90). -/
def portLookup : List (Port × Handler) → Port → Option Handler
  | [], _ => none
  | (q, h) :: t, p => if q = p then some h else portLookup t p

/-- The first port the map gives a handler, for the encoder. -/
def portOf : List (Port × Handler) → Handler → Option Port
  | [], _ => none
  | (q, g) :: t, h => if g = h then some q else portOf t h

/-- No port of the map has two entries: "A P_PORTMAP that gives one port two handlers is ill-formed" (R90, D49). -/
def portMapOk : List (Port × Handler) → Bool
  | [] => true
  | (q, _) :: t => (portLookup t q).isNone && portMapOk t

/-- The class of a command byte: the first row that matches, else OTHER (R96). -/
def cmdClass : List CmdRow → Byte → CmdClass
  | [], _ => .other
  | r :: t, c => if c &&& r.mask = r.pat then r.cls else cmdClass t c

/-- The five control-bit positions are all distinct (D5). -/
def ctrlBitsOk (b : CtrlBits) : Bool :=
  b.romdis != b.strobe && b.romdis != b.led0 && b.romdis != b.led1 && b.romdis != b.led2 &&
  b.strobe != b.led0 && b.strobe != b.led1 && b.strobe != b.led2 &&
  b.led0 != b.led1 && b.led0 != b.led2 && b.led1 != b.led2

/-- At least 1, as R8 asks of four parameters. -/
def positive : Nat → Bool
  | 0 => false
  | _ + 1 => true

/-- The parameters obey what R8, R24, R90 and R98 ask of them. -/
def paramsOk (p : Params) : Bool :=
  portMapOk p.portMap && ctrlBitsOk p.ctrlBits && p.syncPattern.length == 38 &&
  positive p.indexPeriod && positive p.cyclesPerSlice && positive p.slicesPerFrame && positive p.watchdogSlices &&
  Memory.wf p.initRam && Memory.below 65536 p.initRam

/-- The default P_PORTMAP: PRESUMED, the NABU PC's map, from general knowledge by the spec's own mark (R91, G1;
log entry 7). -/
def defaultPortMap : List (Port × Handler) :=
  [(0x00, .ctrl), (0x40, .psgData), (0x41, .psgAddr), (0x80, .hcca), (0x90, .kbd), (0xA0, .vdpData),
   (0xA1, .vdpCtrl), (0xB0, .par), (0xC0, .fdcCmdStat), (0xC1, .fdcTrack), (0xC2, .fdcSector),
   (0xC3, .fdcData), (0xCF, .fdcSel)]

/-- The default P_CTRL_BITS: PRESUMED, by the spec's own mark (R24, G2; log entry 8). -/
def defaultCtrlBits : CtrlBits := ⟨0, 2, 3, 4, 5⟩

/-- The default P_CMD_DECODE on the high nibble: PRESUMED, by the spec's own mark (R96, G3; log entry 9). -/
def defaultCmdDecode : List CmdRow :=
  [⟨0xF0, 0x00, .restore⟩, ⟨0xE0, 0x80, .readSector⟩, ⟨0xF0, 0xC0, .status⟩, ⟨0xF0, 0xD0, .irqAck⟩,
   ⟨0xF0, 0xE0, .diag⟩]

/-- The bytes `f k, f (k+1), …`, `n` of them. -/
def bytesFrom (f : Nat → Byte) : Nat → Nat → List Byte
  | _, 0 => []
  | k, n + 1 => f k :: bytesFrom f (k + 1) n

/-- The parameters at `State.reset`: the spec's default binding where it gives one (D3, D4, D5, D16, D17, D21), an
opaque constant of Config where it gives none (log entry 6), and P_INIT_RAM all zero (log entry 5). -/
def defaultParams : Params where
  portMap := defaultPortMap
  unmappedRead := 0xFF
  ctrlBits := defaultCtrlBits
  cmdDecode := defaultCmdDecode
  spt200 := 5
  spt400 := 5
  spt800 := 5
  rateCode := Config.rateCode
  crc0 := 0x00
  crc1 := 0x00
  syncPattern := bytesFrom Config.syncByte 0 38
  indexPeriod := Config.indexPeriodPred + 1
  cyclesPerSlice := Config.cyclesPerSlicePred + 1
  slicesPerFrame := Config.slicesPerFramePred + 1
  visibleFirst := Config.visibleFirst
  visibleCount := Config.visibleCount
  watchdogSlices := Config.watchdogSlicesPred + 1
  keepaliveCode := Config.keepaliveCode
  initRam := []
  sinkAttached := Config.sinkAttached

end Sys2Proof.Machine
end

