-- ==== Sys2Proof/Syntax.lean ====
section
/-! DEFINITION. The operations of the block, one constructor per mnemonic of spec/opcode_table.json. The table's six
rows of FDC_OTHER are six encodings of one operation and share the constructor `fdcOther` (log entry 23). -/

namespace Sys2Proof

/-- The operations of spec/opcode_table.json, in the table's order. -/
inductive Instr where
  -- memory operations, 41_bus_dispatcher.md section 1
  | memRd (a : Addr)
  | memWr (a : Addr) (v : Byte)
  -- port operations, sections 3 to 7
  | ctrlRd
  | ctrlWr (v : Byte)
  | psgDataRd
  | psgDataWr (v : Byte)
  | psgAddrRd
  | psgAddrWr (v : Byte)
  | hccaRd
  | hccaWr (v : Byte)
  | kbdRd
  | kbdWr (v : Byte)
  | vdpDataRd
  | vdpDataWr (v : Byte)
  | vdpCtrlRd
  | vdpCtrlWr (v : Byte)
  | parRd
  | parWr (v : Byte)
  | fdcStatusRd
  | fdcCmdWr (c : Byte)
  | fdcTrackRd
  | fdcTrackWr (v : Byte)
  | fdcSectorRd
  | fdcSectorWr (v : Byte)
  | fdcDataRd
  | fdcDataWr (v : Byte)
  | fdcSelRd
  | fdcSelWr (v : Byte)
  | unmappedRd (p : Port)
  | unmappedWr (p : Port) (v : Byte)
  -- the control write's side effect, R165
  | strobeEdge (old new : Byte)
  -- floppy command classes, 42_floppy_controller.md section 3
  | fdcRestore (c : Byte)
  | fdcOther (c : Byte)
  | fdcReadSector (c : Byte)
  | fdcStatus (c : Byte)
  | fdcIrqAck (c : Byte)
  | fdcDiag (c : Byte)
  -- internal operations
  | recompute
  | maskWrite (v : Byte)
  | flagSet (f : Flag)
  | flagClear (f : Flag)
  | enterIdle
  | loadStream (bytes : List Byte)
  | indexActive
  | fdcTick
  | slice
  | cpuPhase
  | housekeeping
  | rxPoll
  | keyPromote
  | watchdog
  | sliceIncrement
  | renderCheck
  | frameCheck
  | boundaryAdvance
  | stopCheck
  | run
  -- host events
  | reset
  | romLoad (img : RawImage)
  | insert (d : Byte) (img : Option RawImage)
  | eject (d : Byte)
  | keyPush (b : Byte)
  | txe (v : Bool)
  | stop
  deriving DecidableEq, Repr

end Sys2Proof
end

