-- ==== Sys2Proof/WellFormed.lean ====
section
/-! DEFINITION. Which operations can be issued under given parameters: a port operation needs its handler in
P_PORTMAP, an unmapped one needs a port outside it (spec 30_encoding.md R90), a floppy command byte must belong to
its class (R96), LOAD_STREAM takes 6, 38 or 1024 bytes (42_floppy_controller.md R228), a host's byte array lists
only bytes it has. -/

namespace Sys2Proof

open Sys2Proof.Machine

/-- The handler has a port (R90). -/
def handlerMapped (p : Params) (h : Handler) : Bool := (portOf p.portMap h).isSome

/-- No handler claims the port (R66). -/
def portUnmapped (p : Params) (q : Port) : Bool := (portLookup p.portMap q).isNone

/-- The command byte selects this class (R96). -/
def commandOf (p : Params) (c : Byte) (k : CmdClass) : Bool := cmdClass p.cmdDecode c == k

/-- A stream has 6, 38 or 1024 bytes (R228). -/
def streamLengthOk (bytes : List Byte) : Bool :=
  bytes.length == 6 || bytes.length == 38 || bytes.length == 1024

/-- A host's byte array: shorter than 2^32 bytes, its cells canonical and inside it. -/
def RawImage.ok (img : RawImage) : Bool :=
  decide (img.size < 2 ^ 32) && Memory.wf img.data && Memory.below img.size img.data

/-- The operation can be issued under these parameters. -/
def Instr.wellFormed (p : Params) : Instr → Bool
  | .ctrlRd => handlerMapped p .ctrl
  | .ctrlWr _ => handlerMapped p .ctrl
  | .psgDataRd => handlerMapped p .psgData
  | .psgDataWr _ => handlerMapped p .psgData
  | .psgAddrRd => handlerMapped p .psgAddr
  | .psgAddrWr _ => handlerMapped p .psgAddr
  | .hccaRd => handlerMapped p .hcca
  | .hccaWr _ => handlerMapped p .hcca
  | .kbdRd => handlerMapped p .kbd
  | .kbdWr _ => handlerMapped p .kbd
  | .vdpDataRd => handlerMapped p .vdpData
  | .vdpDataWr _ => handlerMapped p .vdpData
  | .vdpCtrlRd => handlerMapped p .vdpCtrl
  | .vdpCtrlWr _ => handlerMapped p .vdpCtrl
  | .parRd => handlerMapped p .par
  | .parWr _ => handlerMapped p .par
  | .fdcStatusRd => handlerMapped p .fdcCmdStat
  | .fdcCmdWr _ => handlerMapped p .fdcCmdStat
  | .fdcTrackRd => handlerMapped p .fdcTrack
  | .fdcTrackWr _ => handlerMapped p .fdcTrack
  | .fdcSectorRd => handlerMapped p .fdcSector
  | .fdcSectorWr _ => handlerMapped p .fdcSector
  | .fdcDataRd => handlerMapped p .fdcData
  | .fdcDataWr _ => handlerMapped p .fdcData
  | .fdcSelRd => handlerMapped p .fdcSel
  | .fdcSelWr _ => handlerMapped p .fdcSel
  | .unmappedRd q => portUnmapped p q
  | .unmappedWr q _ => portUnmapped p q
  | .fdcRestore c => commandOf p c .restore
  | .fdcOther c => commandOf p c .other
  | .fdcReadSector c => commandOf p c .readSector
  | .fdcStatus c => commandOf p c .status
  | .fdcIrqAck c => commandOf p c .irqAck
  | .fdcDiag c => commandOf p c .diag
  | .loadStream bytes => streamLengthOk bytes
  | .romLoad img => RawImage.ok img
  | .insert _ (some img) => RawImage.ok img
  | .insert _ none => true
  | .memRd _ => true
  | .memWr _ _ => true
  | .strobeEdge _ _ => true
  | .recompute => true
  | .maskWrite _ => true
  | .flagSet _ => true
  | .flagClear _ => true
  | .enterIdle => true
  | .indexActive => true
  | .fdcTick => true
  | .slice => true
  | .cpuPhase => true
  | .housekeeping => true
  | .rxPoll => true
  | .keyPromote => true
  | .watchdog => true
  | .sliceIncrement => true
  | .renderCheck => true
  | .frameCheck => true
  | .boundaryAdvance => true
  | .stopCheck => true
  | .run => true
  | .reset => true
  | .eject _ => true
  | .keyPush _ => true
  | .txe _ => true
  | .stop => true

end Sys2Proof
end

