-- ==== Sys2Proof/Decode.lean ====
section
/-! DEFINITION. From bytes to an operation, and back. The block has no instruction bytes of its own (spec
30_encoding.md: "The block has no instruction set"): an operation is a bus cycle, a command byte, an internal step or
a host event. The model writes one operation as a kind byte (its own, DESIGN CHOICE, log entry 1) and then the
operands the spec gives it: the address, the port number, the data or command byte. Port numbers are decoded by
P_PORTMAP (R90), command bytes by P_CMD_DECODE (R96). -/

namespace Sys2Proof

open Sys2Proof.Machine

/-- Why a stream of bytes is no operation. -/
inductive DecodeError where
  /-- No byte at all. -/
  | empty
  /-- The kind byte names no kind of operation. -/
  | unknownKind (k : Byte)
  /-- The operands end before the operation is whole. -/
  | truncated
  /-- The operand byte of FLAG_SET or FLAG_CLEAR names no flag. -/
  | noSuchFlag (b : Byte)
  /-- The operand byte of TXE is neither 0 nor 1. -/
  | notABool (b : Byte)
  /-- The presence byte of INSERT is neither 0 (file missing) nor 1. -/
  | notAPresence (b : Byte)
  /-- LOAD_STREAM with a length other than 6, 38 or 1024 (R228). -/
  | badStreamLength (n : Nat)
  /-- A host's byte array lists a byte it has not, or is not in canonical form. -/
  | badImage
  deriving DecidableEq, Repr

/-- What the decoder gives: an operation and the bytes after it, or the reason there is none. -/
abbrev Decoded := Except DecodeError (Instr × List Byte)

/-- Take one operand byte. -/
def take1 (bs : List Byte) (f : Byte → List Byte → Decoded) : Decoded :=
  match bs with
  | b :: r => f b r
  | [] => .error .truncated

/-- Take two operand bytes. -/
def take2 (bs : List Byte) (f : Byte → Byte → List Byte → Decoded) : Decoded :=
  match bs with
  | a :: b :: r => f a b r
  | _ => .error .truncated

/-- Take three operand bytes. -/
def take3 (bs : List Byte) (f : Byte → Byte → Byte → List Byte → Decoded) : Decoded :=
  match bs with
  | a :: b :: c :: r => f a b c r
  | _ => .error .truncated

/-- Take `n` bytes. -/
def takeBytes : Nat → List Byte → Option (List Byte × List Byte)
  | 0, bs => some ([], bs)
  | _ + 1, [] => none
  | n + 1, b :: bs =>
    match takeBytes n bs with
    | some (xs, r) => some (b :: xs, r)
    | none => none

/-- Take a number of four bytes, the low one first. -/
def takeNat32 : List Byte → Option (Nat × List Byte)
  | a :: b :: c :: d :: r =>
    some (a.toNat + 256 * b.toNat + 65536 * c.toNat + 16777216 * d.toNat, r)
  | _ => none

/-- Take `n` cells, each a number of four bytes and a byte. -/
def takeCells : Nat → List Byte → Option (Memory × List Byte)
  | 0, bs => some ([], bs)
  | n + 1, bs =>
    match takeNat32 bs with
    | some (a, v :: r) =>
      match takeCells n r with
      | some (cs, r') => some ((a, v) :: cs, r')
      | none => none
    | _ => none

/-- Take a host's byte array: its length, the number of its cells, its cells. -/
def takeImage (bs : List Byte) (f : RawImage → List Byte → Decoded) : Decoded :=
  match takeNat32 bs with
  | some (size, r) =>
    match takeNat32 r with
    | some (n, r') =>
      match takeCells n r' with
      | some (cells, r'') =>
        if RawImage.ok ⟨size, cells⟩ then f ⟨size, cells⟩ r'' else .error .badImage
      | none => .error .truncated
    | none => .error .truncated
  | none => .error .truncated

/-- The read operation of a handler (R91, the table's port_read rows). -/
def readInstr : Handler → Instr
  | .ctrl => .ctrlRd
  | .psgData => .psgDataRd
  | .psgAddr => .psgAddrRd
  | .hcca => .hccaRd
  | .kbd => .kbdRd
  | .vdpData => .vdpDataRd
  | .vdpCtrl => .vdpCtrlRd
  | .par => .parRd
  | .fdcCmdStat => .fdcStatusRd
  | .fdcTrack => .fdcTrackRd
  | .fdcSector => .fdcSectorRd
  | .fdcData => .fdcDataRd
  | .fdcSel => .fdcSelRd

/-- The write operation of a handler (R91, the table's port_write rows). -/
def writeInstr (h : Handler) (v : Byte) : Instr :=
  match h with
  | .ctrl => .ctrlWr v
  | .psgData => .psgDataWr v
  | .psgAddr => .psgAddrWr v
  | .hcca => .hccaWr v
  | .kbd => .kbdWr v
  | .vdpData => .vdpDataWr v
  | .vdpCtrl => .vdpCtrlWr v
  | .par => .parWr v
  | .fdcCmdStat => .fdcCmdWr v
  | .fdcTrack => .fdcTrackWr v
  | .fdcSector => .fdcSectorWr v
  | .fdcData => .fdcDataWr v
  | .fdcSel => .fdcSelWr v

/-- The operation a port read is: PORT_RD's dispatch (R162). -/
def portReadInstr (p : Params) (q : Port) : Instr :=
  match portLookup p.portMap q with
  | some h => readInstr h
  | none => .unmappedRd q

/-- The operation a port write is: PORT_WR's dispatch (R163). -/
def portWriteInstr (p : Params) (q : Port) (v : Byte) : Instr :=
  match portLookup p.portMap q with
  | some h => writeInstr h v
  | none => .unmappedWr q v

/-- The operation a floppy command byte is (R96, R221). -/
def commandInstr (p : Params) (c : Byte) : Instr :=
  match cmdClass p.cmdDecode c with
  | .restore => .fdcRestore c
  | .readSector => .fdcReadSector c
  | .status => .fdcStatus c
  | .irqAck => .fdcIrqAck c
  | .diag => .fdcDiag c
  | .other => .fdcOther c

/-- The flag an operand byte names. -/
def flagOfByte (b : Byte) : Option Flag :=
  if b = 0 then some .rx else if b = 1 then some .tx else if b = 2 then some .key
  else if b = 3 then some .vblank else none

/-- The operand byte that names a flag. -/
def byteOfFlag : Flag → Byte
  | .rx => 0
  | .tx => 1
  | .key => 2
  | .vblank => 3

/-- Take a flag. -/
def takeFlag (bs : List Byte) (f : Flag → Instr) : Decoded :=
  take1 bs fun b r =>
    match flagOfByte b with
    | some g => .ok (f g, r)
    | none => .error (.noSuchFlag b)

/-- Take the operand of TXE. -/
def takeTxe (bs : List Byte) : Decoded :=
  take1 bs fun b r =>
    if b = 0 then .ok (.txe false, r) else if b = 1 then .ok (.txe true, r) else .error (.notABool b)

/-- Take the operands of INSERT: drive index, presence byte, image. -/
def takeInsert (bs : List Byte) : Decoded :=
  take2 bs fun d b r =>
    if b = 0 then .ok (.insert d none, r)
    else if b = 1 then takeImage r fun img r' => .ok (.insert d (some img), r')
    else .error (.notAPresence b)

/-- Take the operands of LOAD_STREAM: the length in two bytes, the low one first, and the bytes. -/
def takeStream (bs : List Byte) : Decoded :=
  take2 bs fun lo hi r =>
    let n := lo.toNat + 256 * hi.toNat
    if n = 6 ∨ n = 38 ∨ n = 1024 then
      match takeBytes n r with
      | some (xs, r') => .ok (.loadStream xs, r')
      | none => .error .truncated
    else .error (.badStreamLength n)

/-- The operation at the head of a stream of bytes, and the bytes after it. Total: every stream is an operation or
is rejected by name. -/
def decode (p : Params) : List Byte → Decoded
  | [] => .error .empty
  | k :: r =>
    match k.toNat with
    | 0x01 => take2 r fun lo hi r' => .ok (.memRd (hi ++ lo), r')
    | 0x02 => take3 r fun lo hi v r' => .ok (.memWr (hi ++ lo) v, r')
    | 0x03 => take1 r fun q r' => .ok (portReadInstr p q, r')
    | 0x04 => take2 r fun q v r' => .ok (portWriteInstr p q v, r')
    | 0x05 => take1 r fun c r' => .ok (commandInstr p c, r')
    | 0x06 => take2 r fun o n r' => .ok (.strobeEdge o n, r')
    | 0x10 => .ok (.recompute, r)
    | 0x11 => take1 r fun v r' => .ok (.maskWrite v, r')
    | 0x12 => takeFlag r .flagSet
    | 0x13 => takeFlag r .flagClear
    | 0x14 => .ok (.enterIdle, r)
    | 0x15 => takeStream r
    | 0x16 => .ok (.indexActive, r)
    | 0x17 => .ok (.fdcTick, r)
    | 0x18 => .ok (.slice, r)
    | 0x19 => .ok (.cpuPhase, r)
    | 0x1A => .ok (.housekeeping, r)
    | 0x1B => .ok (.rxPoll, r)
    | 0x1C => .ok (.keyPromote, r)
    | 0x1D => .ok (.watchdog, r)
    | 0x1E => .ok (.sliceIncrement, r)
    | 0x1F => .ok (.renderCheck, r)
    | 0x20 => .ok (.frameCheck, r)
    | 0x21 => .ok (.boundaryAdvance, r)
    | 0x22 => .ok (.stopCheck, r)
    | 0x23 => .ok (.run, r)
    | 0x30 => .ok (.reset, r)
    | 0x31 => takeImage r fun img r' => .ok (.romLoad img, r')
    | 0x32 => takeInsert r
    | 0x33 => take1 r fun d r' => .ok (.eject d, r')
    | 0x34 => take1 r fun b r' => .ok (.keyPush b, r')
    | 0x35 => takeTxe r
    | 0x36 => .ok (.stop, r)
    | _ => .error (.unknownKind k)

/-- The low byte of an address. -/
def loByte (a : Addr) : Byte := a.extractLsb' 0 8

/-- The high byte of an address. -/
def hiByte (a : Addr) : Byte := a.extractLsb' 8 8

/-- A number in four bytes, the low one first. -/
def nat32 (n : Nat) : List Byte :=
  [BitVec.ofNat 8 n, BitVec.ofNat 8 (n / 256), BitVec.ofNat 8 (n / 65536), BitVec.ofNat 8 (n / 16777216)]

/-- The cells of an array, each a number of four bytes and a byte. -/
def encodeCells : Memory → List Byte
  | [] => []
  | (a, v) :: t => nat32 a ++ v :: encodeCells t

/-- A host's byte array. -/
def encodeImage (img : RawImage) : List Byte :=
  nat32 img.size ++ nat32 img.data.length ++ encodeCells img.data

/-- The port read that reaches a handler. -/
def encodeRead (p : Params) (h : Handler) : List Byte := [0x03, (portOf p.portMap h).getD 0]

/-- The port write that reaches a handler. -/
def encodeWrite (p : Params) (h : Handler) (v : Byte) : List Byte := [0x04, (portOf p.portMap h).getD 0, v]

/-- The bytes of an operation. -/
def encode (p : Params) : Instr → List Byte
  | .memRd a => [0x01, loByte a, hiByte a]
  | .memWr a v => [0x02, loByte a, hiByte a, v]
  | .ctrlRd => encodeRead p .ctrl
  | .ctrlWr v => encodeWrite p .ctrl v
  | .psgDataRd => encodeRead p .psgData
  | .psgDataWr v => encodeWrite p .psgData v
  | .psgAddrRd => encodeRead p .psgAddr
  | .psgAddrWr v => encodeWrite p .psgAddr v
  | .hccaRd => encodeRead p .hcca
  | .hccaWr v => encodeWrite p .hcca v
  | .kbdRd => encodeRead p .kbd
  | .kbdWr v => encodeWrite p .kbd v
  | .vdpDataRd => encodeRead p .vdpData
  | .vdpDataWr v => encodeWrite p .vdpData v
  | .vdpCtrlRd => encodeRead p .vdpCtrl
  | .vdpCtrlWr v => encodeWrite p .vdpCtrl v
  | .parRd => encodeRead p .par
  | .parWr v => encodeWrite p .par v
  | .fdcStatusRd => encodeRead p .fdcCmdStat
  | .fdcCmdWr c => encodeWrite p .fdcCmdStat c
  | .fdcTrackRd => encodeRead p .fdcTrack
  | .fdcTrackWr v => encodeWrite p .fdcTrack v
  | .fdcSectorRd => encodeRead p .fdcSector
  | .fdcSectorWr v => encodeWrite p .fdcSector v
  | .fdcDataRd => encodeRead p .fdcData
  | .fdcDataWr v => encodeWrite p .fdcData v
  | .fdcSelRd => encodeRead p .fdcSel
  | .fdcSelWr v => encodeWrite p .fdcSel v
  | .unmappedRd q => [0x03, q]
  | .unmappedWr q v => [0x04, q, v]
  | .strobeEdge o n => [0x06, o, n]
  | .fdcRestore c => [0x05, c]
  | .fdcOther c => [0x05, c]
  | .fdcReadSector c => [0x05, c]
  | .fdcStatus c => [0x05, c]
  | .fdcIrqAck c => [0x05, c]
  | .fdcDiag c => [0x05, c]
  | .recompute => [0x10]
  | .maskWrite v => [0x11, v]
  | .flagSet f => [0x12, byteOfFlag f]
  | .flagClear f => [0x13, byteOfFlag f]
  | .enterIdle => [0x14]
  | .loadStream bytes =>
    0x15 :: BitVec.ofNat 8 bytes.length :: BitVec.ofNat 8 (bytes.length / 256) :: bytes
  | .indexActive => [0x16]
  | .fdcTick => [0x17]
  | .slice => [0x18]
  | .cpuPhase => [0x19]
  | .housekeeping => [0x1A]
  | .rxPoll => [0x1B]
  | .keyPromote => [0x1C]
  | .watchdog => [0x1D]
  | .sliceIncrement => [0x1E]
  | .renderCheck => [0x1F]
  | .frameCheck => [0x20]
  | .boundaryAdvance => [0x21]
  | .stopCheck => [0x22]
  | .run => [0x23]
  | .reset => [0x30]
  | .romLoad img => 0x31 :: encodeImage img
  | .insert d none => [0x32, d, 0]
  | .insert d (some img) => 0x32 :: d :: 1 :: encodeImage img
  | .eject d => [0x33, d]
  | .keyPush b => [0x34, b]
  | .txe v => [0x35, if v then 1 else 0]
  | .stop => [0x36]

/-- `n` bytes of a number, the low one first. -/
def natBytes : Nat → Nat → List Byte
  | 0, _ => []
  | n + 1, w => BitVec.ofNat 8 w :: natBytes n (w / 256)

/-- The stream that stands for a word of the opcode table. The table gives one 8-bit word to a port read, a port
write and a floppy command alike and no bit tells the three apart; DESIGN CHOICE (log entry 2): a word that is a
port of the default map is that port's read, any other 8-bit word is the command byte. A 16-bit word is the address
of a memory read. A word of another length is a stream in the model's own encoding. -/
def tableStream (nbits w : Nat) : List Byte :=
  if nbits = 16 then 0x01 :: natBytes 2 w
  else if nbits = 8 then
    (match portLookup defaultPortMap (BitVec.ofNat 8 w) with
     | some _ => [0x03, BitVec.ofNat 8 w]
     | none => [0x05, BitVec.ofNat 8 w])
  else natBytes (nbits / 8) w ++ [0, 0, 0, 0, 0, 0, 0, 0]

/-- The operation the decoder reads from a word of the opcode table, under the default bindings. -/
def decodeTableWord (nbits w : Nat) : Option Instr :=
  match decode defaultParams (tableStream nbits w) with
  | .ok (i, _) => some i
  | .error _ => none

end Sys2Proof
end

