-- ==== Sys2Proof/Machine/State.lean ====
section
/-! DEFINITION. The state of the block: the record of spec 10_state.md R20, plain data, and beside it the model's
own fields (parameters, pending operations, collaborators' answers, trace). Faults, refusals, and the state after
reset. -/

namespace Sys2Proof.Machine

/-- The floppy controller's command mode (R32). -/
inductive FdcMode where
  | idle | streamingRead
  deriving DecidableEq, Repr

/-- The loaded ROM size: "exactly 4096 or 8192 bytes" (R22), or no ROM loaded yet (R322; log entry 4). -/
inductive RomSize where
  | unloaded | kib4 | kib8
  deriving DecidableEq, Repr

/-- A disk image in a drive: its geometry, which gives its length (R38), and its bytes. -/
structure Image where
  geometry : Geometry
  data : Memory
  deriving DecidableEq, Repr

/-- The floppy controller's state (R32-R37). -/
structure Fdc where
  mode : FdcMode
  status : Byte
  track : Byte
  sector : Byte
  data : Byte
  buf : Memory
  len : Nat
  cursor : Nat
  driveSelect : Byte
  streamDrive : Option DriveId
  rot : Nat
  deriving DecidableEq, Repr

/-- A diagnostic: "a log message with no effect on state" (R292). -/
inductive Diag where
  /-- Read of a port no handler claims (R181). -/
  | unmappedRead (p : Port)
  /-- Write to a port no handler claims (R182). -/
  | unmappedWrite (p : Port)
  /-- PSG register address of 16 or more (R166). -/
  | psgAddress (v : Byte)
  /-- Write to the keyboard port (R173). -/
  | keyboardWrite (v : Byte)
  /-- READ SECTOR with no drive selected (R223). -/
  | badDrive
  /-- READ SECTOR on an empty drive (R223). -/
  | noDisk
  /-- READ SECTOR with a sector out of range (R223). -/
  | badSector
  /-- READ SECTOR beyond the image's end (R223). -/
  | beyondImage
  /-- A command byte of class OTHER (R227). -/
  | unknownCommand (c : Byte)
  /-- Eject of an empty drive (R241). -/
  | driveEmpty (d : DriveId)
  deriving DecidableEq, Repr

/-- Why a host action is refused: the spec's `ConfigError` (R18, R291, R294). The state stays as it was. -/
inductive ConfigError where
  /-- ROM image not of 4096 or 8192 bytes (R322). -/
  | romSize
  /-- ROM load once the run has begun: R17 allows it "before the run" (log entry 17). -/
  | romAfterStart
  /-- Run started with no ROM: "A run may not start without a successful ROM load" (R322). -/
  | noRom
  /-- INSERT or EJECT with a drive index other than 0 or 1 (R240, R241). -/
  | noSuchDrive
  /-- INSERT of a missing file (R240). -/
  | missingFile
  /-- INSERT of an image of an invalid length (R240). -/
  | imageSize
  /-- INSERT into an occupied drive (R240, D27). -/
  | driveOccupied
  /-- Parameters that break what R8, R24, R90 or R98 ask of them (D49; log entry 22). -/
  | illFormedParams
  deriving DecidableEq, Repr

/-- What the block tells the outside: a value returned to the caller of an operation, a call of a collaborator, a
diagnostic. No operation reads the trace (log entry 13). -/
inductive Event where
  /-- The byte a read returns to its caller. -/
  | reply (b : Byte)
  /-- The Bool INDEX_ACTIVE returns (R231). -/
  | replyBool (v : Bool)
  /-- The CPU's interrupt-line setter (R11, R136). -/
  | irqLine (active : Bool) (vector : Vector3)
  /-- The encoder's mirror driven into PSG port B (R136). -/
  | psgPortB (b : Byte)
  /-- A byte to the parallel sink (R165). -/
  | sinkByte (b : Byte)
  /-- `psg.write(r, v)` (R168). -/
  | psgWrite (r v : Byte)
  /-- `psg.read(r)` (R169). -/
  | psgRead (r : Byte)
  /-- `modem.bytes_available()` (R266). -/
  | modemPoll
  /-- `modem.read_byte()` (R170). -/
  | modemRead
  /-- `modem.write_byte(v)` (R171). -/
  | modemWrite (v : Byte)
  /-- `vdp.status_read()` (R176). -/
  | vdpStatusRead
  /-- `vdp.data_read()` (R177). -/
  | vdpDataRead
  /-- `vdp.data_write(v)` (R178). -/
  | vdpDataWrite (v : Byte)
  /-- `vdp.control_write(v)` (R179). -/
  | vdpControlWrite (v : Byte)
  /-- `vdp.vblank_enable()` (R271). -/
  | vdpVblankEnable
  /-- `vdp.render_row(n)` (R270). -/
  | renderRow (n : Nat)
  /-- `presentation.frame_complete()` (R271). -/
  | frameComplete
  /-- `cpu.step()`, with the interrupt line the CPU sees at its start (R262, R139). -/
  | cpuStep (active : Bool) (vector : Vector3)
  /-- A diagnostic (R292). -/
  | diag (d : Diag)
  /-- A host action refused during a CPU phase (log entry 19). -/
  | hostRefused (e : ConfigError)
  deriving DecidableEq, Repr

/-- What the collaborators will answer. When a list is empty the answer is an opaque free value of Config, the
`drawn`-th (R9 `draw()`, D43; log entry 11). -/
structure Answers where
  bytes : List Byte
  bools : List Bool
  steps : List CpuStep
  drawn : Nat
  deriving DecidableEq, Repr

/-- Where the run of R275 stands (log entry 16). -/
inductive RunState where
  | notStarted | running | ended
  deriving DecidableEq, Repr

/-- The state of the block, R20, and the model's own fields. -/
structure State where
  /-- R21. -/
  ram : Memory
  /-- R22. -/
  rom : Memory
  /-- R22. -/
  romSize : RomSize
  /-- R23, R24. -/
  ctrl : Byte
  /-- R25. -/
  parLatch : Byte
  /-- R26. -/
  rx : Bool
  /-- R26. -/
  tx : Bool
  /-- R26. -/
  key : Bool
  /-- R26. -/
  vblank : Bool
  /-- R28, PSG register 14. -/
  mask : Byte
  /-- R30. -/
  psgLatch : Byte
  /-- R32-R37. -/
  fdc : Fdc
  /-- R38. -/
  drive0 : Option Image
  /-- R38. -/
  drive1 : Option Image
  /-- R40: the ring's bytes. -/
  kq : Memory
  /-- R40. -/
  kqRd : Byte
  /-- R40. -/
  kqWr : Byte
  /-- R41. -/
  cycles : Nat
  /-- R42. -/
  nextBoundary : Nat
  /-- R43. -/
  slice : Nat
  /-- R44. -/
  kbdIdle : Nat
  /-- R45. -/
  stop : Bool
  /-- R46. -/
  faulted : Bool
  /-- The model's own: the parameters of the step (R48), written by nothing. -/
  params : Params
  /-- The model's own: the operations the agents have issued, as bytes, and the block has not begun. -/
  input : List Byte
  /-- The model's own: the collaborators' answers to come. -/
  answers : Answers
  /-- The model's own: what the block told the outside, newest first. -/
  trace : List Event
  /-- The model's own: where the run stands. -/
  runState : RunState
  deriving DecidableEq, Repr

/-- Why a Fatal abort took place (R293). -/
inductive FatalReason where
  /-- A PSG data access with the latch above 15 (R168, R169). -/
  | psgLatchRange
  /-- A state that breaks an invariant of R49 (R293, R294). -/
  | invariantBroken
  /-- An operation in a state that is faulted already: "no further operation takes place" (R46). -/
  | alreadyFaulted
  deriving DecidableEq, Repr

/-- The faults. -/
inductive Fault where
  /-- `Fatal` (R18, R293), raised by `raiseFatal`: the run ends in the faulted state `final`, whose `faulted` is
  set. Safe: it is the outcome the spec names. -/
  | fatal (reason : FatalReason) (final : State)
  deriving DecidableEq, Repr

/-- The refusals. In each the state stays as it was, the pending bytes with it (log entry 28). -/
inductive Refusal where
  /-- An instruction with no meaning yet, raised by exec's arm. Safe: it stops. -/
  | notModelled (mnemonic : String)
  /-- The spec's `ConfigError` (R291): a host action refused, raised by ROM_LOAD, INSERT, EJECT, RUN, and by the
  step for ill-formed parameters. Safe: it is the outcome the spec names. -/
  | configError (e : ConfigError)
  /-- The pending bytes are no operation, raised by the step. Safe: it stops. -/
  | undecodable (e : DecodeError)
  deriving DecidableEq, Repr

/-- The three outcomes of an operation. -/
abbrev Result := Host.Outcome State Fault Refusal

/-- The floppy controller after reset (R20, R320). -/
def Fdc.reset : Fdc where
  mode := .idle
  status := 0x00
  track := 0x00
  sector := 0x00
  data := 0x00
  buf := []
  len := 0
  cursor := 0
  driveSelect := 0x00
  streamDrive := none
  rot := 0

/-- The machine right after reset (R20, R320), before the host has done anything: no ROM loaded, no disk inserted,
no operation issued, the parameters of `defaultParams`. -/
def State.reset : State where
  ram := defaultParams.initRam
  rom := []
  romSize := .unloaded
  ctrl := 0x00
  parLatch := 0x00
  rx := false
  tx := false
  key := false
  vblank := false
  mask := 0x00
  psgLatch := 0
  fdc := Fdc.reset
  drive0 := none
  drive1 := none
  kq := []
  kqRd := 0
  kqWr := 0
  cycles := 0
  nextBoundary := defaultParams.cyclesPerSlice
  slice := 0
  kbdIdle := 0
  stop := false
  faulted := false
  params := defaultParams
  input := []
  answers := ⟨[], [], [], 0⟩
  trace := []
  runState := .notStarted

end Sys2Proof.Machine
end

