-- ==== Sys2Proof/Machine/Flags.lean ====
section
/-! DEFINITION. The Interrupt Arbiter's combinational function (spec 40_interrupt_arbiter.md section 1): every flag
computation of the block. The outputs are derived from the four request flags and the mask, never stored
(10_state.md R29). -/

namespace Sys2Proof.Machine

/-- The raw request byte: "bit7=receive-available, bit6=transmit-empty, bit5=key-available, bit4=vblank,
bits3-0 unused" (R92). -/
def rawRequests (rx tx key vblank : Bool) : Byte :=
  (if rx then 0x80#8 else 0) ||| (if tx then 0x40#8 else 0) ||| (if key then 0x20#8 else 0) |||
    (if vblank then 0x10#8 else 0)

/-- The external request input, held permanently inactive (R27). -/
def extReq : Bool := false

/-- The gated requests (R131). -/
def requests (s : State) : Byte := rawRequests s.rx s.tx s.key s.vblank &&& s.mask

/-- The group signal of a request byte (R132). -/
def groupActive (req : Byte) : Bool := req != 0 || extReq

/-- The index of the highest-numbered active input, 0 when none is active: the table of R135. -/
def highestInput (req : Byte) : Vector3 :=
  if req.getLsbD 7 then 7 else if req.getLsbD 6 then 6 else if req.getLsbD 5 then 5 else if req.getLsbD 4 then 4
  else if req.getLsbD 3 then 3 else if req.getLsbD 2 then 2 else if req.getLsbD 1 then 1 else 0

/-- Bits 3..1 the vector, bit 0 the active flag, bits 7..4 zero (R94; the packing is the source's own
"empirically reverse-engineered" one, U1: UNVERIFIED, log entry 24). -/
def packPortB (active : Bool) (vector : Vector3) : Byte :=
  (vector ++ BitVec.ofBool active : BitVec 4).setWidth 8

/-- `active`: the group signal, which equals the request-line level (R29, R132). -/
def active (s : State) : Bool := groupActive (requests s)

/-- `vector` (R29, R133). -/
def vector (s : State) : Vector3 := if requests s = 0 then 0 else highestInput (requests s)

/-- `portb`: the port-B mirror (R29, R134). -/
def portb (s : State) : Byte := packPortB (active s) (vector s)

/-- The value of one request flag. -/
def flagValue : Flag → State → Bool
  | .rx, s => s.rx
  | .tx, s => s.tx
  | .key, s => s.key
  | .vblank, s => s.vblank

/-- The state with one request flag set to a value. -/
def setFlag (f : Flag) (v : Bool) (s : State) : State :=
  match f with
  | .rx => { s with rx := v }
  | .tx => { s with tx := v }
  | .key => { s with key := v }
  | .vblank => { s with vblank := v }

end Sys2Proof.Machine
end

