-- ==== Sys2Proof/Machine/Operands.lean ====
section
/-! DEFINITION. The operand forms: bits of a register, fields of the control and status registers, the drive a
byte selects, the lengths of ROM and disk images, the offset of a sector. -/

namespace Sys2Proof.Machine

/-- Byte `b` with bit `i` set to `v`. -/
def setBit (b : Byte) (i : Nat) (v : Bool) : Byte :=
  if v then b ||| (1#8 <<< i) else b &&& ~~~(1#8 <<< i)

/-- BUSY, bit 0 of `fdc.status` (R33). -/
abbrev bitBusy : Nat := 0

/-- DRQ, bit 1 of `fdc.status`; a status read in Idle shows INDEX there (R33, R95). -/
abbrev bitDrq : Nat := 1

/-- SEEK-ERROR, bit 4 of `fdc.status` (R33). -/
abbrev bitSeekErr : Nat := 4

/-- NOT-READY, bit 7 of `fdc.status` (R33). -/
abbrev bitNotReady : Nat := 7

/-- The ROM-disable bit of a control byte (R24). -/
def ctrlRomdis (p : Params) (c : Byte) : Bool := c.getLsbD p.ctrlBits.romdis.val

/-- The parallel strobe bit of a control byte (R24). -/
def ctrlStrobe (p : Params) (c : Byte) : Bool := c.getLsbD p.ctrlBits.strobe.val

/-- The three LED bits of the control register, "pure state for presentation" (R24, R164). -/
def leds (s : State) : Bool × Bool × Bool :=
  (s.ctrl.getLsbD s.params.ctrlBits.led0.val, s.ctrl.getLsbD s.params.ctrlBits.led1.val,
   s.ctrl.getLsbD s.params.ctrlBits.led2.val)

/-- The drive a byte names: 0 and 1 name a drive, any other value none (R36, R240). -/
def driveOf (b : Byte) : Option DriveId :=
  if b = 0 then some .d0 else if b = 1 then some .d1 else none

/-- The image in a drive (R38). -/
def driveImage (d : DriveId) (s : State) : Option Image :=
  match d with
  | .d0 => s.drive0
  | .d1 => s.drive1

/-- The state with a drive's image replaced. -/
def setDriveImage (d : DriveId) (i : Option Image) (s : State) : State :=
  match d with
  | .d0 => { s with drive0 := i }
  | .d1 => { s with drive1 := i }

/-- The length of an image of a geometry (R38). -/
def geometryBytes : Geometry → Nat
  | .ss200 => 204800
  | .ds400 => 409600
  | .ds800 => 819200

/-- The geometry of an image length; no other length is valid (R38, R240). -/
def geometryOfSize (n : Nat) : Option Geometry :=
  if n = 204800 then some .ss200 else if n = 409600 then some .ds400 else if n = 819200 then some .ds800
  else none

/-- P_SPT of a geometry (R99). -/
def sectorsPerTrack (p : Params) : Geometry → Nat
  | .ss200 => p.spt200
  | .ds400 => p.spt400
  | .ds800 => p.spt800

/-- The bytes of the loaded ROM, 0 while none is loaded (R22). -/
def romBytes : RomSize → Nat
  | .unloaded => 0
  | .kib4 => 4096
  | .kib8 => 8192

/-- The ROM size of an image length; no other length is valid (R322). -/
def romSizeOf (n : Nat) : Option RomSize :=
  if n = 4096 then some .kib4 else if n = 8192 then some .kib8 else none

/-- The image offset `(track * P_SPT + (sector - 1)) * 1024`, exact (R99, R223). It is used only where
`sector` is at least 1. -/
def sectorOffset (track sector : Byte) (spt : Nat) : Nat := (track.toNat * spt + (sector.toNat - 1)) * 1024

end Sys2Proof.Machine
end

