-- ==== Sys2Proof/Machine/Ops.lean ====
section
/-! DEFINITION. The named operations over memory, registers, queue, trace and collaborators, shared by the meanings;
and the one abort of the block (the block takes no trap and has no return from one: spec 60_exceptions.md R290,
R297-R299). -/

namespace Sys2Proof.Machine

/-- Do one operation and then another; a fault or refusal of the first ends both. -/
def andThen (r : Result) (f : State → Result) : Result :=
  match r with
  | .next s => f s
  | .fault e => .fault e
  | .refused e => .refused e

/-- `raise Fatal(reason)`: sets `faulted` and ends the run in that state (R9, R46, R293). -/
def raiseFatal (reason : FatalReason) (s : State) : Result := .fault (.fatal reason { s with faulted := true })

/-- `refuse ConfigError(reason)`: the host action is rejected, the state stays (R9, R291). -/
def refuse (e : ConfigError) : Result := .refused (.configError e)

/-- Tell the outside. -/
def log (e : Event) (s : State) : State := { s with trace := e :: s.trace }

/-- Return a byte to the caller of the operation. -/
def reply (b : Byte) (s : State) : State := log (.reply b) s

/-- A diagnostic (R292). -/
def diagnose (d : Diag) (s : State) : State := log (.diag d) s

/-- The byte the next `draw()` of a byte gives (R9): the answer that stands first, else a free value. -/
def nextByte (s : State) : Byte :=
  match s.answers.bytes with
  | b :: _ => b
  | [] => Config.freeByte s.answers.drawn

/-- The answers once a byte is drawn: without the one that stood first, or with one free value more drawn. -/
def withoutByte (a : Answers) : Answers :=
  match a.bytes with
  | _ :: t => { a with bytes := t }
  | [] => { a with drawn := a.drawn + 1 }

/-- The state once that byte is drawn. -/
def dropByte (s : State) : State := { s with answers := withoutByte s.answers }

/-- The Bool the next draw of a Bool gives. -/
def nextBool (s : State) : Bool :=
  match s.answers.bools with
  | b :: _ => b
  | [] => Config.freeBool s.answers.drawn

/-- The answers once a Bool is drawn: without the one that stood first, or with one free value more drawn. -/
def withoutBool (a : Answers) : Answers :=
  match a.bools with
  | _ :: t => { a with bools := t }
  | [] => { a with drawn := a.drawn + 1 }

/-- The state once that Bool is drawn. -/
def dropBool (s : State) : State := { s with answers := withoutBool s.answers }

/-- The CPU step the next draw gives (R11, U7). -/
def nextCpuStep (s : State) : CpuStep :=
  match s.answers.steps with
  | c :: _ => c
  | [] => Config.freeCpuStep s.answers.drawn

/-- The answers once a CPU step is drawn: without the one that stood first, or with one free value more drawn. -/
def withoutCpuStep (a : Answers) : Answers :=
  match a.steps with
  | _ :: t => { a with steps := t }
  | [] => { a with drawn := a.drawn + 1 }

/-- The state once that CPU step is drawn. -/
def dropCpuStep (s : State) : State := { s with answers := withoutCpuStep s.answers }

/-- MemRead: ROM below `rom_size` while ROMDIS is 0, else RAM (R60). -/
def memRead (a : Addr) (s : State) : Byte :=
  if ctrlRomdis s.params s.ctrl = false ∧ a.toNat < romBytes s.romSize then Memory.read s.rom a.toNat
  else Memory.read s.ram a.toNat

/-- MemWrite: always RAM (R61). -/
def memWrite (a : Addr) (v : Byte) (s : State) : State := { s with ram := Memory.write s.ram a.toNat v }

/-- RECOMPUTE: the interrupt line and PSG port B are driven with the encoder's present outputs (R136). The outputs
are derived, so no field of the record changes. -/
def recompute (s : State) : State :=
  log (.psgPortB (portb s)) (log (.irqLine (active s) (vector s)) s)

/-- FLAG_SET (R138). -/
def flagSet (f : Flag) (s : State) : State := recompute (setFlag f true s)

/-- FLAG_CLEAR (R138). -/
def flagClear (f : Flag) (s : State) : State := recompute (setFlag f false s)

/-- MASK_WRITE (R137). -/
def maskWrite (v : Byte) (s : State) : State := recompute { s with mask := v }

/-- The host's change of `tx`, with a recompute (R142). -/
def setTx (v : Bool) (s : State) : State := if v then flagSet .tx s else flagClear .tx s

/-- The keyboard queue is empty iff its indices are equal (R40). -/
def kqEmpty (s : State) : Bool := s.kqRd == s.kqWr

/-- `kq_push`: store at the write index, which wraps silently (R279, R40). -/
def kqPush (b : Byte) (s : State) : State :=
  { s with kq := Memory.write s.kq s.kqWr.toNat b, kqWr := s.kqWr + 1 }

/-- The byte at the read index (R40, R172). -/
def kqHead (s : State) : Byte := Memory.read s.kq s.kqRd.toNat

/-- Advance the read index, which wraps (R40, R172). -/
def kqPop (s : State) : State := { s with kqRd := s.kqRd + 1 }

end Sys2Proof.Machine
end

