-- ==== Sys2Proof/Machine/Arbiter.lean ====
section
/-! DEFINITION. The meanings of the Interrupt Arbiter's rows of the opcode table (spec 40_interrupt_arbiter.md). -/

namespace Sys2Proof.Machine

/-- RECOMPUTE (R136). -/
def execRecompute (s : State) : Result := .next (recompute s)

/-- MASK_WRITE (R137). -/
def execMaskWrite (v : Byte) (s : State) : Result := .next (maskWrite v s)

/-- FLAG_SET (R138). -/
def execFlagSet (f : Flag) (s : State) : Result := .next (flagSet f s)

/-- FLAG_CLEAR (R138). -/
def execFlagClear (f : Flag) (s : State) : Result := .next (flagClear f s)

/-- TXE: the host's change of `tx` (R142). -/
def execTxe (v : Bool) (s : State) : Result := .next (setTx v s)

end Sys2Proof.Machine
end

