-- ==== Sys2Proof/Machine/Floppy.lean ====
section
/-! DEFINITION. The Floppy Controller (spec 42_floppy_controller.md): its shared transitions, its registers, its
commands, and the meanings of the floppy rows of the opcode table. -/

namespace Sys2Proof.Machine

/-- Set one bit of `fdc.status`. -/
def setStatus (i : Nat) (v : Bool) (s : State) : State :=
  { s with fdc := { s.fdc with status := setBit s.fdc.status i v } }

/-- ENTER_IDLE, the single path into Idle (R211). -/
def enterIdle (s : State) : State :=
  { s with fdc := { s.fdc with
      mode := .idle
      status := setBit (setBit s.fdc.status bitBusy false) bitDrq false
      streamDrive := none } }

/-- LOAD_STREAM: the first `n` bytes of `src` into the buffer, BUSY and DRQ set, StreamingRead (R228). -/
def loadStream (src : Memory) (n : Nat) (s : State) : State :=
  { s with fdc := { s.fdc with
      buf := Memory.overlay src n s.fdc.buf
      len := n
      cursor := 0
      status := setBit (setBit s.fdc.status bitBusy true) bitDrq true
      mode := .streamingRead
      streamDrive := driveOf s.fdc.driveSelect } }

/-- A disk is in the selected drive (R231). -/
def diskSelected (s : State) : Bool :=
  match driveOf s.fdc.driveSelect with
  | some d => (driveImage d s).isSome
  | none => false

/-- INDEX: one tick per rotation period, in Idle, with a disk in the selected drive (R231). -/
def indexActive (s : State) : Bool := s.fdc.mode == .idle && s.fdc.rot == 0 && diskSelected s

/-- FDC_TICK: the rotation counter advances modulo P_INDEX_PERIOD (R230). -/
def fdcTick (s : State) : State :=
  { s with fdc := { s.fdc with rot := (s.fdc.rot + 1) % s.params.indexPeriod } }

/-- The byte a status read returns: bit 1 is INDEX in Idle, stored DRQ else (R212, R95). -/
def fdcStatusByte (s : State) : Byte :=
  match s.fdc.mode with
  | .idle => setBit s.fdc.status bitDrq (indexActive s)
  | .streamingRead => s.fdc.status

/-- The state after a data-register read, before the reply: in StreamingRead the next buffer byte goes to
`fdc.data`, the cursor advances, and the read that drains the buffer enters Idle (R217). -/
def fdcDataAdvance (s : State) : State :=
  match s.fdc.mode with
  | .idle => s
  | .streamingRead =>
    let t := { s with fdc := { s.fdc with
      data := Memory.read s.fdc.buf s.fdc.cursor
      cursor := s.fdc.cursor + 1 } }
    if t.fdc.cursor = t.fdc.len then enterIdle t else t

/-- RESTORE (R222). -/
def restoreCommand (s : State) : State :=
  enterIdle (setStatus bitNotReady false (setStatus bitBusy false { s with fdc := { s.fdc with track := 0 } }))

/-- READ SECTOR (R223): the checks in the order drive, disk, sector, extent; the first that fails sets its bit. -/
def readSectorCommand (s : State) : State :=
  let t := setStatus bitNotReady false (setStatus bitSeekErr false (enterIdle s))
  match driveOf t.fdc.driveSelect with
  | none => diagnose .badDrive (setStatus bitNotReady true t)
  | some d =>
    match driveImage d t with
    | none => diagnose .noDisk (setStatus bitNotReady true t)
    | some img =>
      let spt := sectorsPerTrack t.params img.geometry
      if t.fdc.sector.toNat < 1 ∨ spt < t.fdc.sector.toNat then
        diagnose .badSector (setStatus bitSeekErr true t)
      else
        let off := sectorOffset t.fdc.track t.fdc.sector spt
        if geometryBytes img.geometry < off + 1024 then diagnose .beyondImage (setStatus bitSeekErr true t)
        else loadStream (Memory.slice img.data off 1024) 1024 t

/-- The 6-byte status block: track, side 0, sector, rate code, two CRC placeholders (R97). -/
def statusBlock (s : State) : List Byte :=
  [s.fdc.track, 0x00, s.fdc.sector, s.params.rateCode, s.params.crc0, s.params.crc1]

/-- STATUS (R224). -/
def statusCommand (s : State) : State := loadStream (Memory.ofBytes (statusBlock s)) 6 (enterIdle s)

/-- DIAG (R225). -/
def diagCommand (s : State) : State := loadStream (Memory.ofBytes s.params.syncPattern) 38 (enterIdle s)

/-- IRQ ACK: "clears BUSY and NOT-READY, no state change otherwise" (R226). -/
def irqAckCommand (s : State) : State := setStatus bitNotReady false (setStatus bitBusy false s)

/-- OTHER: "no-op, diagnostic log only" (R227). -/
def otherCommand (c : Byte) (s : State) : State := diagnose (.unknownCommand c) s

/-- The command write: one command of the class P_CMD_DECODE gives the byte, in either mode (R221). -/
def fdcCommand (c : Byte) (s : State) : State :=
  match cmdClass s.params.cmdDecode c with
  | .restore => restoreCommand s
  | .readSector => readSectorCommand s
  | .status => statusCommand s
  | .diag => diagCommand s
  | .irqAck => irqAckCommand s
  | .other => otherCommand c s

/-- Write of the track register: any byte, no seek (R214). -/
def fdcTrackWrite (v : Byte) (s : State) : State := { s with fdc := { s.fdc with track := v } }

/-- Write of the sector register: any byte (R216). -/
def fdcSectorWrite (v : Byte) (s : State) : State := { s with fdc := { s.fdc with sector := v } }

/-- Write of the data register (R218). -/
def fdcDataWrite (v : Byte) (s : State) : State := { s with fdc := { s.fdc with data := v } }

/-- Write of the drive-select side channel (R220). -/
def fdcSelectWrite (v : Byte) (s : State) : State := { s with fdc := { s.fdc with driveSelect := v } }

/-- The read handlers. -/
def fdcStatusRead (s : State) : State := reply (fdcStatusByte s) s
/-- R213. -/
def fdcTrackRead (s : State) : State := reply s.fdc.track s
/-- R215. -/
def fdcSectorRead (s : State) : State := reply s.fdc.sector s
/-- R217. -/
def fdcDataRead (s : State) : State := reply (fdcDataAdvance s).fdc.data (fdcDataAdvance s)

/-- FDC_STATUS_RD (R212). -/
def execFdcStatusRd (s : State) : Result := .next (fdcStatusRead s)
/-- FDC_CMD_WR (R221). -/
def execFdcCmdWr (c : Byte) (s : State) : Result := .next (fdcCommand c s)
/-- FDC_TRACK_RD (R213). -/
def execFdcTrackRd (s : State) : Result := .next (fdcTrackRead s)
/-- FDC_TRACK_WR (R214). -/
def execFdcTrackWr (v : Byte) (s : State) : Result := .next (fdcTrackWrite v s)
/-- FDC_SECTOR_RD (R215). -/
def execFdcSectorRd (s : State) : Result := .next (fdcSectorRead s)
/-- FDC_SECTOR_WR (R216). -/
def execFdcSectorWr (v : Byte) (s : State) : Result := .next (fdcSectorWrite v s)
/-- FDC_DATA_RD (R217). -/
def execFdcDataRd (s : State) : Result := .next (fdcDataRead s)
/-- FDC_DATA_WR (R218). -/
def execFdcDataWr (v : Byte) (s : State) : Result := .next (fdcDataWrite v s)
/-- FDC_SEL_RD: write-only, P_UNMAPPED_READ (R219). -/
def execFdcSelRd (s : State) : Result := .next (reply s.params.unmappedRead s)
/-- FDC_SEL_WR (R220). -/
def execFdcSelWr (v : Byte) (s : State) : Result := .next (fdcSelectWrite v s)
/-- FDC_RESTORE (R222). The command byte has chosen the class and has no further effect (R96). -/
def execFdcRestore (_c : Byte) (s : State) : Result := .next (restoreCommand s)
/-- FDC_OTHER (R227). -/
def execFdcOther (c : Byte) (s : State) : Result := .next (otherCommand c s)
/-- FDC_READ_SECTOR (R223). -/
def execFdcReadSector (_c : Byte) (s : State) : Result := .next (readSectorCommand s)
/-- FDC_STATUS (R224). -/
def execFdcStatus (_c : Byte) (s : State) : Result := .next (statusCommand s)
/-- FDC_IRQ_ACK (R226). -/
def execFdcIrqAck (_c : Byte) (s : State) : Result := .next (irqAckCommand s)
/-- FDC_DIAG (R225). -/
def execFdcDiag (_c : Byte) (s : State) : Result := .next (diagCommand s)
/-- ENTER_IDLE (R211). -/
def execEnterIdle (s : State) : Result := .next (enterIdle s)
/-- LOAD_STREAM (R228). -/
def execLoadStream (bytes : List Byte) (s : State) : Result :=
  .next (loadStream (Memory.ofBytes bytes) bytes.length s)
/-- INDEX_ACTIVE (R231): the Bool goes to the caller; no state changes. -/
def execIndexActive (s : State) : Result := .next (log (.replyBool (indexActive s)) s)
/-- FDC_TICK (R230). -/
def execFdcTick (s : State) : Result := .next (fdcTick s)

end Sys2Proof.Machine
end

