-- ==== Sys2Proof/Machine/Bus.lean ====
section
/-! DEFINITION. The Bus Dispatcher (spec 41_bus_dispatcher.md): the handlers behind the port decoder, the dispatch of
memory and port accesses, and the meanings of the bus rows of the opcode table. -/

namespace Sys2Proof.Machine

/-- A read that returns P_UNMAPPED_READ and changes nothing: the write-only registers (R167, R175, R180, R219). -/
def writeOnlyRead (s : State) : State := reply s.params.unmappedRead s

/-- STROBE edge: a 1-to-0 edge emits the parallel latch if a sink is attached (R165). -/
def strobeEdge (old new : Byte) (s : State) : State :=
  if ctrlStrobe s.params old = true ∧ ctrlStrobe s.params new = false ∧ s.params.sinkAttached = true then
    log (.sinkByte s.parLatch) s
  else s

/-- `ctrl_write` (R164). -/
def ctrlWrite (v : Byte) (s : State) : State := strobeEdge s.ctrl v { s with ctrl := v }

/-- Write of the parallel data latch (R174). -/
def parWrite (v : Byte) (s : State) : State := { s with parLatch := v }

/-- `psg_addr_write`: an address above 15 leaves the latch and gives a diagnostic (R166). -/
def psgAddrWrite (v : Byte) (s : State) : State :=
  if v.toNat ≤ 15 then { s with psgLatch := v } else diagnose (.psgAddress v) s

/-- `psg_data_write`: register 14 is the mask; every write is forwarded (R168). -/
def psgDataWrite (v : Byte) (s : State) : Result :=
  if 15 < s.psgLatch.toNat then raiseFatal .psgLatchRange s
  else if s.psgLatch = 14 then .next (log (.psgWrite s.psgLatch v) (maskWrite v s))
  else .next (log (.psgWrite s.psgLatch v) s)

/-- `psg_data_read`: register 14 is the mask, register 15 the port-B mirror, any other is the PSG's (R169). -/
def psgDataRead (s : State) : Result :=
  if 15 < s.psgLatch.toNat then raiseFatal .psgLatchRange s
  else if s.psgLatch = 14 then .next (reply s.mask s)
  else if s.psgLatch = 15 then .next (reply (portb s) s)
  else .next (reply (nextByte s) (log (.psgRead s.psgLatch) (dropByte s)))

/-- `hcca_read`: the modem's byte, and `rx` cleared (R170). -/
def hccaRead (s : State) : State := reply (nextByte s) (flagClear .rx (log .modemRead (dropByte s)))

/-- HCCA write: forwarded to the modem; `tx` is not changed (R171). -/
def hccaWrite (v : Byte) (s : State) : State := log (.modemWrite v) s

/-- `kbd_read`: pops the queue, or draws a byte when it is empty; `key` is cleared (R172). -/
def kbdRead (s : State) : State :=
  if kqEmpty s then reply (nextByte s) (flagClear .key (dropByte s))
  else reply (kqHead s) (flagClear .key (kqPop s))

/-- Keyboard-port write: ignored with a diagnostic (R173). -/
def kbdWrite (v : Byte) (s : State) : State := diagnose (.keyboardWrite v) s

/-- VDP status read: forwarded, and `vblank` cleared (R176). -/
def vdpStatusRead (s : State) : State := reply (nextByte s) (flagClear .vblank (log .vdpStatusRead (dropByte s)))

/-- VDP data read: forwarded (R177). -/
def vdpDataRead (s : State) : State := reply (nextByte s) (log .vdpDataRead (dropByte s))

/-- VDP data write: forwarded (R178). -/
def vdpDataWrite (v : Byte) (s : State) : State := log (.vdpDataWrite v) s

/-- VDP control write: forwarded (R179). -/
def vdpControlWrite (v : Byte) (s : State) : State := log (.vdpControlWrite v) s

/-- Read of an unmapped port: the sentinel, with a diagnostic (R181). -/
def unmappedRead (p : Port) (s : State) : State := reply s.params.unmappedRead (diagnose (.unmappedRead p) s)

/-- Write to an unmapped port: a diagnostic (R182). -/
def unmappedWrite (p : Port) (s : State) : State := diagnose (.unmappedWrite p) s

/-- A handler's read meaning (R91). -/
def handlerRead (h : Handler) (s : State) : Result :=
  match h with
  | .ctrl => .next (writeOnlyRead s)
  | .psgData => psgDataRead s
  | .psgAddr => .next (writeOnlyRead s)
  | .hcca => .next (hccaRead s)
  | .kbd => .next (kbdRead s)
  | .vdpData => .next (vdpDataRead s)
  | .vdpCtrl => .next (vdpStatusRead s)
  | .par => .next (writeOnlyRead s)
  | .fdcCmdStat => .next (fdcStatusRead s)
  | .fdcTrack => .next (fdcTrackRead s)
  | .fdcSector => .next (fdcSectorRead s)
  | .fdcData => .next (fdcDataRead s)
  | .fdcSel => .next (writeOnlyRead s)

/-- A handler's write meaning (R91). -/
def handlerWrite (h : Handler) (v : Byte) (s : State) : Result :=
  match h with
  | .ctrl => .next (ctrlWrite v s)
  | .psgData => psgDataWrite v s
  | .psgAddr => .next (psgAddrWrite v s)
  | .hcca => .next (hccaWrite v s)
  | .kbd => .next (kbdWrite v s)
  | .vdpData => .next (vdpDataWrite v s)
  | .vdpCtrl => .next (vdpControlWrite v s)
  | .par => .next (parWrite v s)
  | .fdcCmdStat => .next (fdcCommand v s)
  | .fdcTrack => .next (fdcTrackWrite v s)
  | .fdcSector => .next (fdcSectorWrite v s)
  | .fdcData => .next (fdcDataWrite v s)
  | .fdcSel => .next (fdcSelectWrite v s)

/-- PORT_RD: exactly one handler, or the unmapped read (R162). -/
def portRead (p : Port) (s : State) : Result :=
  match portLookup s.params.portMap p with
  | some h => handlerRead h s
  | none => .next (unmappedRead p s)

/-- PORT_WR (R163). -/
def portWrite (p : Port) (v : Byte) (s : State) : Result :=
  match portLookup s.params.portMap p with
  | some h => handlerWrite h v s
  | none => .next (unmappedWrite p s)

/-- One access of the CPU collaborator, resolved at once (R11). -/
def busAccess (a : BusAccess) (s : State) : Result :=
  match a with
  | .memRead x => .next (reply (memRead x s) s)
  | .memWrite x v => .next (memWrite x v s)
  | .portRead p => portRead p s
  | .portWrite p v => portWrite p v s

/-- MEM_RD (R160). -/
def execMemRd (a : Addr) (s : State) : Result := .next (reply (memRead a s) s)
/-- MEM_WR (R161). -/
def execMemWr (a : Addr) (v : Byte) (s : State) : Result := .next (memWrite a v s)
/-- CTRL_RD: write-only (R180). -/
def execCtrlRd (s : State) : Result := .next (writeOnlyRead s)
/-- CTRL_WR (R164). -/
def execCtrlWr (v : Byte) (s : State) : Result := .next (ctrlWrite v s)
/-- PSG_DATA_RD (R169). -/
def execPsgDataRd (s : State) : Result := psgDataRead s
/-- PSG_DATA_WR (R168). -/
def execPsgDataWr (v : Byte) (s : State) : Result := psgDataWrite v s
/-- PSG_ADDR_RD: write-only (R167). -/
def execPsgAddrRd (s : State) : Result := .next (writeOnlyRead s)
/-- PSG_ADDR_WR (R166). -/
def execPsgAddrWr (v : Byte) (s : State) : Result := .next (psgAddrWrite v s)
/-- HCCA_RD (R170). -/
def execHccaRd (s : State) : Result := .next (hccaRead s)
/-- HCCA_WR (R171). -/
def execHccaWr (v : Byte) (s : State) : Result := .next (hccaWrite v s)
/-- KBD_RD (R172). -/
def execKbdRd (s : State) : Result := .next (kbdRead s)
/-- KBD_WR (R173). -/
def execKbdWr (v : Byte) (s : State) : Result := .next (kbdWrite v s)
/-- VDP_DATA_RD (R177). -/
def execVdpDataRd (s : State) : Result := .next (vdpDataRead s)
/-- VDP_DATA_WR (R178). -/
def execVdpDataWr (v : Byte) (s : State) : Result := .next (vdpDataWrite v s)
/-- VDP_CTRL_RD (R176). -/
def execVdpCtrlRd (s : State) : Result := .next (vdpStatusRead s)
/-- VDP_CTRL_WR (R179). -/
def execVdpCtrlWr (v : Byte) (s : State) : Result := .next (vdpControlWrite v s)
/-- PAR_RD: write-only (R175). -/
def execParRd (s : State) : Result := .next (writeOnlyRead s)
/-- PAR_WR (R174). -/
def execParWr (v : Byte) (s : State) : Result := .next (parWrite v s)
/-- UNMAPPED_RD (R181). -/
def execUnmappedRd (p : Port) (s : State) : Result := .next (unmappedRead p s)
/-- UNMAPPED_WR (R182): the byte has no effect. -/
def execUnmappedWr (p : Port) (_v : Byte) (s : State) : Result := .next (unmappedWrite p s)
/-- STROBE_EDGE (R165). -/
def execStrobeEdge (old new : Byte) (s : State) : Result := .next (strobeEdge old new s)

end Sys2Proof.Machine
end

