-- ==== Sys2Proof/Machine/HostActions.lean ====
section
/-! DEFINITION. The host's and the input collaborator's actions (spec 42_floppy_controller.md section 5,
43_scheduler.md section 4, 70_reset_and_hazards.md section 1), and the meanings of the host_event rows. -/

namespace Sys2Proof.Machine

/-- `insert(d, IMG)`: the checks in the order index, file, length, occupied (R240). -/
def insertDisk (d : Byte) (img : Option RawImage) (s : State) : Result :=
  match driveOf d with
  | none => refuse .noSuchDrive
  | some dr =>
    match img with
    | none => refuse .missingFile
    | some raw =>
      match geometryOfSize raw.size with
      | none => refuse .imageSize
      | some g =>
        match driveImage dr s with
        | some _ => refuse .driveOccupied
        | none => .next (setDriveImage dr (some ⟨g, Memory.normalize raw.size raw.data⟩) s)

/-- `eject(d)`: an empty drive gives a diagnostic; the drive being streamed aborts the stream (R241). -/
def ejectDisk (d : Byte) (s : State) : Result :=
  match driveOf d with
  | none => refuse .noSuchDrive
  | some dr =>
    match driveImage dr s with
    | none => .next (diagnose (.driveEmpty dr) s)
    | some _ =>
      if s.fdc.mode = .streamingRead ∧ s.fdc.streamDrive = some dr then
        .next (setDriveImage dr none (enterIdle s))
      else .next (setDriveImage dr none s)

/-- The host sets the stop flag (R274). -/
def setStop (s : State) : State := { s with stop := true }

/-- `rom_load(IMG)` (R322): the first bytes of `rom` and `rom_size`; before the run only (R17, log entry 17). -/
def loadRom (img : RawImage) (s : State) : Result :=
  if s.runState ≠ .notStarted then refuse .romAfterStart
  else
    match romSizeOf img.size with
    | none => refuse .romSize
    | some z =>
      .next { s with rom := Memory.overlay (Memory.normalize img.size img.data) img.size s.rom, romSize := z }

/-- Every field of the record at its reset value (R320): RAM is P_INIT_RAM, ROM and drives stay as the host left
them, the line is inactive. The model's own fields stay, but for the run, which has not begun (log entry 18). -/
def resetBlock (s : State) : State :=
  recompute { s with
    ram := s.params.initRam
    ctrl := 0x00
    parLatch := 0x00
    rx := false
    tx := false
    key := false
    vblank := false
    mask := 0x00
    psgLatch := 0
    fdc := { mode := .idle, status := 0x00, track := 0x00, sector := 0x00, data := 0x00, buf := [], len := 0,
             cursor := 0, driveSelect := 0x00, streamDrive := none, rot := 0 }
    kq := []
    kqRd := 0
    kqWr := 0
    cycles := 0
    nextBoundary := s.params.cyclesPerSlice
    slice := 0
    kbdIdle := 0
    stop := false
    faulted := false
    runState := .notStarted }

/-- An action that may fall inside a CPU phase (R15, R17, D50). -/
def hostAct (h : HostAct) (s : State) : Result :=
  match h with
  | .keyPush b => .next (kqPush b s)
  | .txe v => .next (setTx v s)
  | .insert d img => insertDisk d img s
  | .eject d => ejectDisk d s
  | .stop => .next (setStop s)

/-- RESET (R320). -/
def execReset (s : State) : Result := .next (resetBlock s)
/-- ROM_LOAD (R322). -/
def execRomLoad (img : RawImage) (s : State) : Result := loadRom img s
/-- INSERT (R240). -/
def execInsert (d : Byte) (img : Option RawImage) (s : State) : Result := insertDisk d img s
/-- EJECT (R241). -/
def execEject (d : Byte) (s : State) : Result := ejectDisk d s
/-- KEY_PUSH (R279). -/
def execKeyPush (b : Byte) (s : State) : Result := .next (kqPush b s)
/-- STOP (R274). -/
def execStop (s : State) : Result := .next (setStop s)

end Sys2Proof.Machine
end

