-- ==== Sys2Proof/Machine/Scheduler.lean ====
section
/-! DEFINITION. The Scheduler (spec 43_scheduler.md): the CPU phase, housekeeping, slice and frame, the stop check
and the run, and the meanings of the scheduler's rows of the opcode table. -/

namespace Sys2Proof.Machine

/-- A host action between two accesses of a CPU phase: a refused one changes nothing, and the phase goes on
(R291; log entry 19). -/
def hostActInPhase (h : HostAct) (s : State) : Result :=
  match hostAct h s with
  | .refused (.configError e) => .next (log (.hostRefused e) s)
  | r => r

/-- One act inside a CPU step. -/
def cpuAct (a : CpuAct) (s : State) : Result :=
  match a with
  | .bus b => busAccess b s
  | .host h => hostActInPhase h s

/-- The acts of a CPU step, in order; a Fatal ends the run (R261). -/
def cpuActs : List CpuAct → State → Result
  | [], s => .next s
  | a :: t, s => andThen (cpuAct a s) (cpuActs t)

/-- `cpu.step()`: the CPU sees the present interrupt line, performs its accesses, and its cycle counter grows by
at least 1 (R11, R139, R262). -/
def cpuStep (s : State) : Result :=
  andThen (cpuActs (nextCpuStep s).acts (log (.cpuStep (active s) (vector s)) (dropCpuStep s)))
    fun t => .next { t with cycles := t.cycles + ((nextCpuStep s).extra + 1) }

/-- The CPU phase's loop, with the number of steps it can take at most. -/
def cpuLoop : Nat → State → Result
  | 0, s => .next s
  | n + 1, s => if s.cycles < s.nextBoundary then andThen (cpuStep s) (cpuLoop n) else .next s

/-- CPU_PHASE: the CPU steps while `cycles < next_boundary`; at most `next_boundary - cycles` steps (R262). -/
def cpuPhase (s : State) : Result := cpuLoop (s.nextBoundary - s.cycles) s

/-- `rx_poll` (R266). -/
def rxPoll (s : State) : State :=
  if nextBool s then flagSet .rx (log .modemPoll (dropBool s)) else log .modemPoll (dropBool s)

/-- `key_promote` (R267). -/
def keyPromote (s : State) : State :=
  if kqEmpty s = false ∧ s.key = false then flagSet .key s else s

/-- The watchdog (R268). -/
def watchdog (s : State) : State :=
  if kqEmpty s then
    if s.kbdIdle + 1 = s.params.watchdogSlices then { kqPush s.params.keepaliveCode s with kbdIdle := 0 }
    else { s with kbdIdle := s.kbdIdle + 1 }
  else { s with kbdIdle := 0 }

/-- HOUSEKEEPING: exactly these four steps, in this order (R264). -/
def housekeeping (s : State) : State := watchdog (keyPromote (rxPoll (fdcTick s)))

/-- The slice index advances (R269). -/
def sliceIncrement (s : State) : State := { s with slice := s.slice + 1 }

/-- RENDER_CHECK: a slice in the visible region is rendered by the VDP (R270). -/
def renderCheck (s : State) : State :=
  if s.params.visibleFirst ≤ s.slice ∧ s.slice < s.params.visibleFirst + s.params.visibleCount then
    log (.renderRow s.slice) s
  else s

/-- FRAME_CHECK: at the frame's end the index returns to 0, the frame is complete, and `vblank` is set if the VDP
enables it (R271). -/
def frameCheck (s : State) : State :=
  if s.slice = s.params.slicesPerFrame then
    let t := log .vdpVblankEnable (dropBool (log .frameComplete { s with slice := 0 }))
    if nextBool s then flagSet .vblank t else t
  else s

/-- BOUNDARY_ADVANCE (R272). -/
def boundaryAdvance (s : State) : State := { s with nextBoundary := s.nextBoundary + s.params.cyclesPerSlice }

/-- STOP_CHECK: with `stop` set the run ends (R274). -/
def stopCheck (s : State) : State := if s.stop then { s with runState := .ended } else s

/-- Invariant 6 of R49, true after every completed slice; kept as a check (R293). -/
def sliceInvariant (s : State) : Bool := decide (s.nextBoundary ≤ s.cycles + s.params.cyclesPerSlice)

/-- What a slice does after its CPU phase, in the order of R261. -/
def sliceTail (s : State) : State :=
  stopCheck (boundaryAdvance (frameCheck (renderCheck (sliceIncrement (housekeeping s)))))

/-- The check at the end of a slice. -/
def sliceDone (s : State) : Result := if sliceInvariant s then .next s else raiseFatal .invariantBroken s

/-- SLICE: one iteration, in the fixed order of R261. -/
def sliceStep (s : State) : Result := andThen (cpuPhase s) fun t => sliceDone (sliceTail t)

/-- A run that has not ended goes on (R275). -/
def runOn (s : State) : State :=
  match s.runState with
  | .ended => s
  | _ => { s with runState := .running }

/-- RUN: "repeat slice_step() until the run ends" (R275). This operation is the first iteration; it leaves the run
running, and each further step with no operation pending is the next iteration (log entry 16). It needs a loaded
ROM (R322). -/
def runBlock (s : State) : Result :=
  if s.romSize = .unloaded then refuse .noRom else andThen (sliceStep s) fun t => .next (runOn t)

/-- SLICE (R261). -/
def execSlice (s : State) : Result := sliceStep s
/-- CPU_PHASE (R262). -/
def execCpuPhase (s : State) : Result := cpuPhase s
/-- HOUSEKEEPING (R264). -/
def execHousekeeping (s : State) : Result := .next (housekeeping s)
/-- RX_POLL (R266). -/
def execRxPoll (s : State) : Result := .next (rxPoll s)
/-- KEY_PROMOTE (R267). -/
def execKeyPromote (s : State) : Result := .next (keyPromote s)
/-- WATCHDOG (R268). -/
def execWatchdog (s : State) : Result := .next (watchdog s)
/-- SLICE_INCREMENT (R269). -/
def execSliceIncrement (s : State) : Result := .next (sliceIncrement s)
/-- RENDER_CHECK (R270). -/
def execRenderCheck (s : State) : Result := .next (renderCheck s)
/-- FRAME_CHECK (R271). -/
def execFrameCheck (s : State) : Result := .next (frameCheck s)
/-- BOUNDARY_ADVANCE (R272). -/
def execBoundaryAdvance (s : State) : Result := .next (boundaryAdvance s)
/-- STOP_CHECK (R274). -/
def execStopCheck (s : State) : Result := .next (stopCheck s)
/-- RUN (R275). -/
def execRun (s : State) : Result := runBlock s

end Sys2Proof.Machine
end

