-- ==== Sys2Proof/Machine/Fetch.lean ====
section
/-! DEFINITION. Which operation comes next, and the checks before it: the pending operations, the run's next slice,
the faulted and the ended machine (spec 10_state.md R46, R49, 43_scheduler.md R274, R275, 60_exceptions.md R293). -/

namespace Sys2Proof.Machine

/-- Items 1 to 3 of R49: the floppy controller's invariants. -/
def fdcInvariants (f : Fdc) : Bool :=
  (match f.mode with
   | .streamingRead => decide (f.cursor < f.len) && f.status.getLsbD 1
   | .idle => !f.status.getLsbD 1 && !f.status.getLsbD 0) &&
  !f.status.getLsbD 2 && !f.status.getLsbD 3 && !f.status.getLsbD 5 && !f.status.getLsbD 6

/-- Items 1 to 5 of R49. The slice index may equal P_SLICES_PER_FRAME only between the increment and the frame
check of one slice (R269), so that is all this check asks; `sliceStartOk` asks for `<` before the operations of
`beginsSlice` (log entries 15, 29). -/
def invariants (s : State) : Bool :=
  fdcInvariants s.fdc && decide (s.psgLatch.toNat ≤ 15) && decide (s.slice ≤ s.params.slicesPerFrame) &&
  decide (s.kbdIdle < s.params.watchdogSlices) && decide (s.fdc.rot < s.params.indexPeriod)

/-- The operations before which R49 item 5 is checked strictly, `slice < P_SLICES_PER_FRAME`: the slice, the run, the
slice's first two parts as wholes, and the increment. DESIGN CHOICE (log entry 29): the single housekeeping steps
(FDC_TICK, RX_POLL, KEY_PROMOTE, WATCHDOG) and the bus accesses, which R261 also puts before the wrap, are not listed,
so issued alone they run with `slice = P_SLICES_PER_FRAME`. -/
def beginsSlice : Instr → Bool
  | .slice => true
  | .run => true
  | .cpuPhase => true
  | .housekeeping => true
  | .sliceIncrement => true
  | _ => false

/-- "Between slices slice is in 0..P_SLICES_PER_FRAME-1" (R269, R49 item 5). -/
def sliceStartOk (i : Instr) (s : State) : Bool :=
  !beginsSlice i || decide (s.slice < s.params.slicesPerFrame)

/-- What the machine does next. -/
inductive Turn where
  /-- Run this operation from this state. -/
  | exec (i : Instr) (s : State)
  /-- Nothing is pending and no run is going, or the run has ended: the state stays. -/
  | idle
  /-- A Fatal abort. -/
  | fatal (r : FatalReason)
  /-- A refusal. -/
  | refuse (r : Refusal)

/-- An operation is run only from a state that keeps the invariants; another state is a Fatal abort (R293). -/
def checked (i : Instr) (s : State) : Turn :=
  if invariants s && sliceStartOk i s then .exec i s else .fatal .invariantBroken

/-- The next operation: the first pending one; with none pending, the next slice of a run that is going (R275). -/
def pending (s : State) : Turn :=
  match s.input with
  | [] =>
    match s.runState with
    | .running => checked .slice s
    | _ => .idle
  | b :: bs =>
    match decode s.params (b :: bs) with
    | .ok (i, rest) => checked i { s with input := rest }
    | .error e => .refuse (.undecodable e)

/-- What the machine does next: a faulted machine does nothing more (R46), ill-formed parameters are refused (D49),
an ended run stays as it is (R274, U23). -/
def turn (s : State) : Turn :=
  if s.faulted then .fatal .alreadyFaulted
  else if paramsOk s.params = false then .refuse (.configError .illFormedParams)
  else
    match s.runState with
    | .ended => .idle
    | _ => pending s

end Sys2Proof.Machine
end

