-- ==== Sys2Proof/Machine/Dispatch.lean ====
section
/-! DEFINITION. One arm per operation, each one direct call of its meaning. -/

namespace Sys2Proof.Machine

def exec (i : Instr) (s : State) : Host.Outcome State Fault Refusal :=
  match i with
  | .memRd a => Sys2Proof.Machine.execMemRd a s
  | .memWr a v => Sys2Proof.Machine.execMemWr a v s
  | .ctrlRd => Sys2Proof.Machine.execCtrlRd s
  | .ctrlWr v => Sys2Proof.Machine.execCtrlWr v s
  | .psgDataRd => Sys2Proof.Machine.execPsgDataRd s
  | .psgDataWr v => Sys2Proof.Machine.execPsgDataWr v s
  | .psgAddrRd => Sys2Proof.Machine.execPsgAddrRd s
  | .psgAddrWr v => Sys2Proof.Machine.execPsgAddrWr v s
  | .hccaRd => Sys2Proof.Machine.execHccaRd s
  | .hccaWr v => Sys2Proof.Machine.execHccaWr v s
  | .kbdRd => Sys2Proof.Machine.execKbdRd s
  | .kbdWr v => Sys2Proof.Machine.execKbdWr v s
  | .vdpDataRd => Sys2Proof.Machine.execVdpDataRd s
  | .vdpDataWr v => Sys2Proof.Machine.execVdpDataWr v s
  | .vdpCtrlRd => Sys2Proof.Machine.execVdpCtrlRd s
  | .vdpCtrlWr v => Sys2Proof.Machine.execVdpCtrlWr v s
  | .parRd => Sys2Proof.Machine.execParRd s
  | .parWr v => Sys2Proof.Machine.execParWr v s
  | .fdcStatusRd => Sys2Proof.Machine.execFdcStatusRd s
  | .fdcCmdWr c => Sys2Proof.Machine.execFdcCmdWr c s
  | .fdcTrackRd => Sys2Proof.Machine.execFdcTrackRd s
  | .fdcTrackWr v => Sys2Proof.Machine.execFdcTrackWr v s
  | .fdcSectorRd => Sys2Proof.Machine.execFdcSectorRd s
  | .fdcSectorWr v => Sys2Proof.Machine.execFdcSectorWr v s
  | .fdcDataRd => Sys2Proof.Machine.execFdcDataRd s
  | .fdcDataWr v => Sys2Proof.Machine.execFdcDataWr v s
  | .fdcSelRd => Sys2Proof.Machine.execFdcSelRd s
  | .fdcSelWr v => Sys2Proof.Machine.execFdcSelWr v s
  | .unmappedRd p => Sys2Proof.Machine.execUnmappedRd p s
  | .unmappedWr p v => Sys2Proof.Machine.execUnmappedWr p v s
  | .strobeEdge old new => Sys2Proof.Machine.execStrobeEdge old new s
  | .fdcRestore c => Sys2Proof.Machine.execFdcRestore c s
  | .fdcOther c => Sys2Proof.Machine.execFdcOther c s
  | .fdcReadSector c => Sys2Proof.Machine.execFdcReadSector c s
  | .fdcStatus c => Sys2Proof.Machine.execFdcStatus c s
  | .fdcIrqAck c => Sys2Proof.Machine.execFdcIrqAck c s
  | .fdcDiag c => Sys2Proof.Machine.execFdcDiag c s
  | .recompute => Sys2Proof.Machine.execRecompute s
  | .maskWrite v => Sys2Proof.Machine.execMaskWrite v s
  | .flagSet f => Sys2Proof.Machine.execFlagSet f s
  | .flagClear f => Sys2Proof.Machine.execFlagClear f s
  | .enterIdle => Sys2Proof.Machine.execEnterIdle s
  | .loadStream bytes => Sys2Proof.Machine.execLoadStream bytes s
  | .indexActive => Sys2Proof.Machine.execIndexActive s
  | .fdcTick => Sys2Proof.Machine.execFdcTick s
  | .slice => Sys2Proof.Machine.execSlice s
  | .cpuPhase => Sys2Proof.Machine.execCpuPhase s
  | .housekeeping => Sys2Proof.Machine.execHousekeeping s
  | .rxPoll => Sys2Proof.Machine.execRxPoll s
  | .keyPromote => Sys2Proof.Machine.execKeyPromote s
  | .watchdog => Sys2Proof.Machine.execWatchdog s
  | .sliceIncrement => Sys2Proof.Machine.execSliceIncrement s
  | .renderCheck => Sys2Proof.Machine.execRenderCheck s
  | .frameCheck => Sys2Proof.Machine.execFrameCheck s
  | .boundaryAdvance => Sys2Proof.Machine.execBoundaryAdvance s
  | .stopCheck => Sys2Proof.Machine.execStopCheck s
  | .run => Sys2Proof.Machine.execRun s
  | .reset => Sys2Proof.Machine.execReset s
  | .romLoad img => Sys2Proof.Machine.execRomLoad img s
  | .insert d img => Sys2Proof.Machine.execInsert d img s
  | .eject d => Sys2Proof.Machine.execEject d s
  | .keyPush b => Sys2Proof.Machine.execKeyPush b s
  | .txe v => Sys2Proof.Machine.execTxe v s
  | .stop => Sys2Proof.Machine.execStop s

end Sys2Proof.Machine
end

