-- ==== Sys2Proof/Machine/Step.lean ====
section
/-! DEFINITION. One step of the machine, and where a word of the opcode table is placed so that the next step runs
it. -/

namespace Sys2Proof.Machine

/-- One step: the operation whose turn it is (spec 00_scope.md R10: one operation is one atomic transition). A refusal answers no state (R18, R291: the state stays as it was), so what was refused, a host
action or undecodable bytes, is still first in `input`, and every step from that state refuses again: DESIGN CHOICE,
log entry 28. The outside goes on by taking those bytes from `input`. -/
def step (s : State) : Host.Outcome State Fault Refusal :=
  match turn s with
  | .exec i t => exec i t
  | .idle => .next s
  | .fatal r => raiseFatal r s
  | .refuse r => .refused r

/-- The state with the operation of a table word as the only pending one (log entry 3). -/
def State.withFetchWord (s : State) (nbits w : Nat) : State := { s with input := tableStream nbits w }

end Sys2Proof.Machine
end

