-- ==== Sys2Proof/Safety.lean ====
section
/-! DEFINITION. What a good state is (spec 10_state.md R49, R35, R38, R22) and what a safe step is (00_scope.md
R18), in the terms the statements use. -/

namespace Sys2Proof.Machine

/-- A byte array in canonical form with every byte below `n`. -/
def ArrayOk (n : Nat) (m : Memory) : Prop := Memory.wf m = true ∧ Memory.below n m = true

/-- The image in a drive is canonical and no longer than its geometry (R38). -/
def ImageOk : Option Image → Prop
  | none => True
  | some img => ArrayOk (geometryBytes img.geometry) img.data

/-- The invariants of the block that hold between operations, whatever operation comes: R49 items 1 to 5 (with the
slice index as R269 bounds it also inside a slice), R35's bounds, and the canonical form of every byte array. -/
structure Inv (s : State) : Prop where
  params : paramsOk s.params = true
  checks : invariants s = true
  cursorLe : s.fdc.cursor ≤ s.fdc.len
  lenLe : s.fdc.len ≤ 1024
  ram : ArrayOk 65536 s.ram
  rom : ArrayOk 8192 s.rom
  buf : ArrayOk 1024 s.fdc.buf
  kq : ArrayOk 256 s.kq
  drive0 : ImageOk s.drive0
  drive1 : ImageOk s.drive1

/-- R49 item 5 between slices. -/
def BetweenSlices (s : State) : Prop := s.slice < s.params.slicesPerFrame

/-- The outcome is no Fatal abort. -/
def NoFault (r : Result) : Prop := ∀ e, r ≠ .fault e

/-- The same operation `n` times. -/
def repeatExec : Nat → Instr → State → Result
  | 0, _, s => .next s
  | n + 1, i, s => andThen (exec i s) (repeatExec n i)

/-- A list of operations, in order. -/
def execAll : List Instr → State → Result
  | [], s => .next s
  | i :: is, s => andThen (exec i s) (execAll is)

/-- The bytes a trace says were returned to a caller, newest first. -/
def replies (tr : List Event) : List Byte :=
  tr.filterMap fun e => match e with
    | .reply b => some b
    | _ => none

/-- The two calls a recompute makes in a state, newest first (R136). -/
def lineEvents (s : State) : List Event := [.psgPortB (portb s), .irqLine (active s) (vector s)]

/-- The interrupt line as the CPU was last told it; inactive before it was told anything (R320). -/
def lastLine : List Event → Bool × Vector3
  | [] => (false, 0)
  | .irqLine a v :: _ => (a, v)
  | _ :: t => lastLine t

/-- The CPU has last been told the outputs the encoder gives now (R29, R139). -/
def LineDriven (s : State) : Prop := lastLine s.trace = (active s, vector s)

/-- READ SECTOR has failed from `s` in `t`: error bit `bit` alone is set, the controller is Idle with BUSY and DRQ
clear, nothing is loaded, and the diagnostic is `d` (R223). -/
structure ReadSectorFailed (s t : State) (bit : Nat) (d : Diag) : Prop where
  mode : t.fdc.mode = .idle
  streamDrive : t.fdc.streamDrive = none
  buf : t.fdc.buf = s.fdc.buf
  len : t.fdc.len = s.fdc.len
  cursor : t.fdc.cursor = s.fdc.cursor
  busy : t.fdc.status.getLsbD 0 = false
  drq : t.fdc.status.getLsbD 1 = false
  seekErr : t.fdc.status.getLsbD 4 = decide (bit = 4)
  notReady : t.fdc.status.getLsbD 7 = decide (bit = 7)
  trace : t.trace = .diag d :: s.trace

/-- READ SECTOR has loaded 1024 bytes of `img` from `off` on (R223, R228). -/
structure ReadSectorLoaded (s t : State) (d : DriveId) (img : Image) (off : Nat) : Prop where
  mode : t.fdc.mode = .streamingRead
  streamDrive : t.fdc.streamDrive = some d
  buf : ∀ j, j < 1024 → Memory.read t.fdc.buf j = Memory.read img.data (off + j)
  bufAbove : ∀ j, 1024 ≤ j → Memory.read t.fdc.buf j = Memory.read s.fdc.buf j
  len : t.fdc.len = 1024
  cursor : t.fdc.cursor = 0
  busy : t.fdc.status.getLsbD 0 = true
  drq : t.fdc.status.getLsbD 1 = true
  seekErr : t.fdc.status.getLsbD 4 = false
  notReady : t.fdc.status.getLsbD 7 = false
  trace : t.trace = s.trace

end Sys2Proof.Machine
end

