-- ==== Sys2Proof/Certificates/Slice0/Obligations.lean ====
section
/-! DEFINITION. The statements for the provers, in the order of the spec's files. Each docstring names the rule it
formalises. A byte an operation returns to its caller is the `reply` at the head of the model's trace (log entry 13);
a collaborator's answer is `nextByte s` or `nextBool s`, any value at all (log entry 11). -/

open Sys2Proof Sys2Proof.Machine

/-! ### Memory (20_memory.md) -/

/-- R60: ROM below its loaded size while ROMDIS is 0, else RAM; no side effect. -/
def Obligations.MemReadReturnsOverlayByte : Prop :=
  ∀ (a : Addr) (s : State),
    exec (.memRd a) s = .next { s with
      trace := .reply
        (if s.ctrl.getLsbD s.params.ctrlBits.romdis.val = false ∧ a.toNat < romBytes s.romSize
         then Memory.read s.rom a.toNat else Memory.read s.ram a.toNat) :: s.trace }

/-- R61: a write stores in RAM whatever ROMDIS and whatever the address, and has no other effect. -/
def Obligations.MemWriteTargetsRam : Prop :=
  ∀ (a : Addr) (v : Byte) (s : State), Memory.wf s.ram = true →
    ∃ m, exec (.memWr a v) s = .next { s with ram := m } ∧ Memory.read m a.toNat = v ∧
      (∀ b, b ≠ a.toNat → Memory.read m b = Memory.read s.ram b) ∧ Memory.wf m = true

/-- R63, the spec's own inference: RAM under the ROM window is written through and hidden until ROMDIS is 1, and
hidden again when ROMDIS returns to 0. -/
def Obligations.RomShadowsWrittenRam : Prop :=
  ∀ (a : Addr) (v c1 c0 : Byte) (s : State), Memory.wf s.ram = true →
    s.ctrl.getLsbD s.params.ctrlBits.romdis.val = false → a.toNat < romBytes s.romSize →
    c1.getLsbD s.params.ctrlBits.romdis.val = true → c0.getLsbD s.params.ctrlBits.romdis.val = false →
    (∃ t, execAll [.memWr a v, .memRd a] s = .next t ∧
      t.trace.head? = some (.reply (Memory.read s.rom a.toNat))) ∧
    (∃ t, execAll [.memWr a v, .ctrlWr c1, .memRd a] s = .next t ∧ t.trace.head? = some (.reply v)) ∧
    (∃ t, execAll [.memWr a v, .ctrlWr c1, .ctrlWr c0, .memRd a] s = .next t ∧
      t.trace.head? = some (.reply (Memory.read s.rom a.toNat)) ∧ Memory.read t.ram a.toNat = v)

/-! ### The Interrupt Arbiter (40_interrupt_arbiter.md) -/

/-- R131, R132, R133: the requests are the flags gated by the mask bits 7..4, the line is active iff one is there, and
the vector is the highest-numbered one, 0 when there is none. -/
def Obligations.EncoderPicksHighestRequest : Prop :=
  ∀ s : State,
    ((requests s).getLsbD 7 = (s.rx && s.mask.getLsbD 7) ∧ (requests s).getLsbD 6 = (s.tx && s.mask.getLsbD 6) ∧
     (requests s).getLsbD 5 = (s.key && s.mask.getLsbD 5) ∧
     (requests s).getLsbD 4 = (s.vblank && s.mask.getLsbD 4) ∧
     ∀ j, j < 4 → (requests s).getLsbD j = false) ∧
    (active s = true ↔ ∃ j, (requests s).getLsbD j = true) ∧
    (active s = true → (requests s).getLsbD (vector s).toNat = true ∧
      ∀ j, (requests s).getLsbD j = true → j ≤ (vector s).toNat) ∧
    (active s = false → vector s = 0)

/-- R94: port B packs the active flag in bit 0, the vector in bits 3..1, zero above; its five values. -/
def Obligations.PortBPacksVectorAndActive : Prop :=
  ∀ s : State,
    (portb s).getLsbD 0 = active s ∧ (∀ j, j < 3 → (portb s).getLsbD (j + 1) = (vector s).getLsbD j) ∧
    (∀ j, 4 ≤ j → (portb s).getLsbD j = false) ∧
    portb s = (if s.rx && s.mask.getLsbD 7 then 0x0F else if s.tx && s.mask.getLsbD 6 then 0x0D
      else if s.key && s.mask.getLsbD 5 then 0x0B else if s.vblank && s.mask.getLsbD 4 then 0x09 else 0x00)

/-- R136, R137, R138: a recompute drives the line and port B with the present outputs and changes no field; a mask
write and a flag change store and recompute, and change nothing else. -/
def Obligations.MaskAndFlagWritesDriveTheLine : Prop :=
  ∀ s : State,
    exec .recompute s = .next { s with trace := lineEvents s ++ s.trace } ∧
    (∀ v, exec (.maskWrite v) s =
      .next { s with mask := v, trace := lineEvents { s with mask := v } ++ s.trace }) ∧
    (exec (.flagSet .rx) s = .next { s with rx := true, trace := lineEvents { s with rx := true } ++ s.trace }) ∧
    (exec (.flagSet .tx) s = .next { s with tx := true, trace := lineEvents { s with tx := true } ++ s.trace }) ∧
    (exec (.flagSet .key) s = .next { s with key := true, trace := lineEvents { s with key := true } ++ s.trace }) ∧
    (exec (.flagSet .vblank) s =
      .next { s with vblank := true, trace := lineEvents { s with vblank := true } ++ s.trace }) ∧
    (exec (.flagClear .rx) s = .next { s with rx := false, trace := lineEvents { s with rx := false } ++ s.trace }) ∧
    (exec (.flagClear .tx) s = .next { s with tx := false, trace := lineEvents { s with tx := false } ++ s.trace }) ∧
    (exec (.flagClear .key) s =
      .next { s with key := false, trace := lineEvents { s with key := false } ++ s.trace }) ∧
    (exec (.flagClear .vblank) s =
      .next { s with vblank := false, trace := lineEvents { s with vblank := false } ++ s.trace })

/-- R142: `txe v` sets or clears `tx` with a recompute; no other operation changes `tx` but the internal flag
operations on it, RESET, and the operations a CPU phase (in which the host may act) is part of. -/
def Obligations.TxChangesOnlyByHostEvent : Prop :=
  (∀ (v : Bool) (s : State),
    exec (.txe v) s = .next { s with tx := v, trace := lineEvents { s with tx := v } ++ s.trace }) ∧
  ∀ (i : Instr) (s t : State), exec i s = .next t → (∀ v, i ≠ .txe v) → i ≠ .flagSet .tx → i ≠ .flagClear .tx →
    i ≠ .reset → i ≠ .cpuPhase → i ≠ .slice → i ≠ .run → t.tx = s.tx

/-- R141, R143, R144: which operations can set and which can clear `rx`, `key` and `vblank`. -/
def Obligations.FlagsChangeOnlyOnTheirPaths : Prop :=
  ∀ (i : Instr) (s t : State), exec i s = .next t →
    (s.rx = false → t.rx = true → i = .rxPoll ∨ i = .housekeeping ∨ i = .slice ∨ i = .run ∨ i = .flagSet .rx) ∧
    (s.rx = true → t.rx = false →
      i = .hccaRd ∨ i = .cpuPhase ∨ i = .slice ∨ i = .run ∨ i = .flagClear .rx ∨ i = .reset) ∧
    (s.key = false → t.key = true →
      i = .keyPromote ∨ i = .housekeeping ∨ i = .slice ∨ i = .run ∨ i = .flagSet .key) ∧
    (s.key = true → t.key = false →
      i = .kbdRd ∨ i = .cpuPhase ∨ i = .slice ∨ i = .run ∨ i = .flagClear .key ∨ i = .reset) ∧
    (s.vblank = false → t.vblank = true → i = .frameCheck ∨ i = .slice ∨ i = .run ∨ i = .flagSet .vblank) ∧
    (s.vblank = true → t.vblank = false →
      i = .vdpCtrlRd ∨ i = .cpuPhase ∨ i = .slice ∨ i = .run ∨ i = .flagClear .vblank ∨ i = .reset)

/-- R29, R136, R139: whatever operation runs, the line the CPU was last told is the encoder's output on the flags and
mask as they now are. -/
def Obligations.EveryStepKeepsTheLineDriven : Prop :=
  ∀ s t : State, LineDriven s → step s = .next t → LineDriven t

/-! ### The Bus Dispatcher (41_bus_dispatcher.md) -/

/-- R167, R175, R180, R219: the write-only registers read as P_UNMAPPED_READ and nothing changes. -/
def Obligations.WriteOnlyPortsReadUnmappedValue : Prop :=
  ∀ s : State,
    exec .ctrlRd s = .next { s with trace := .reply s.params.unmappedRead :: s.trace } ∧
    exec .psgAddrRd s = .next { s with trace := .reply s.params.unmappedRead :: s.trace } ∧
    exec .parRd s = .next { s with trace := .reply s.params.unmappedRead :: s.trace } ∧
    exec .fdcSelRd s = .next { s with trace := .reply s.params.unmappedRead :: s.trace }

/-- From R181, R182: an access to a port with no handler changes no state; a read returns P_UNMAPPED_READ; both give
a diagnostic. The kind bytes 0x03 and 0x04 in the decoding clauses are the model's own encoding (log entry 1, DESIGN
CHOICE), not the spec's. -/
def Obligations.UnmappedPortsChangeNothing : Prop :=
  ∀ (q : Port) (v : Byte) (s : State),
    (portLookup s.params.portMap q = none →
      decode s.params [0x03, q] = .ok (.unmappedRd q, []) ∧
      decode s.params [0x04, q, v] = .ok (.unmappedWr q v, [])) ∧
    exec (.unmappedRd q) s =
      .next { s with trace := .reply s.params.unmappedRead :: .diag (.unmappedRead q) :: s.trace } ∧
    exec (.unmappedWr q v) s = .next { s with trace := .diag (.unmappedWrite q) :: s.trace }

/-- R164, R165: a control write stores the whole byte; a falling strobe edge emits the parallel latch to an attached
sink; the new ROMDIS governs the very next memory read. -/
def Obligations.ControlWriteStoresAndStrobes : Prop :=
  ∀ (v old new : Byte) (s : State),
    (∃ tr, exec (.ctrlWr v) s = .next { s with ctrl := v, trace := tr } ∧
      tr = (if s.ctrl.getLsbD s.params.ctrlBits.strobe.val = true ∧ v.getLsbD s.params.ctrlBits.strobe.val = false ∧
              s.params.sinkAttached = true
            then .sinkByte s.parLatch :: s.trace else s.trace) ∧
      ∀ a : Addr, memRead a { s with ctrl := v, trace := tr } =
        if v.getLsbD s.params.ctrlBits.romdis.val = false ∧ a.toNat < romBytes s.romSize
        then Memory.read s.rom a.toNat else Memory.read s.ram a.toNat) ∧
    exec (.strobeEdge old new) s = .next { s with
      trace := if old.getLsbD s.params.ctrlBits.strobe.val = true ∧ new.getLsbD s.params.ctrlBits.strobe.val = false ∧
          s.params.sinkAttached = true
        then .sinkByte s.parLatch :: s.trace else s.trace }

/-- R174: a parallel write stores the byte and emits nothing; only the last byte before the strobe's falling edge is
emitted, once. -/
def Obligations.ParallelByteIsEmittedOnce : Prop :=
  ∀ (v w c1 c0 : Byte) (s : State),
    exec (.parWr v) s = .next { s with parLatch := v } ∧
    (s.params.sinkAttached = true → s.ctrl.getLsbD s.params.ctrlBits.strobe.val = false →
      c1.getLsbD s.params.ctrlBits.strobe.val = true → c0.getLsbD s.params.ctrlBits.strobe.val = false →
      execAll [.parWr w, .parWr v, .ctrlWr c1, .ctrlWr c0, .ctrlWr c0] s =
        .next { s with parLatch := v, ctrl := c0, trace := .sinkByte v :: s.trace })

/-- R166: an address up to 15 is latched; a greater one leaves the latch, with a diagnostic. -/
def Obligations.PsgAddressIsLatchedInRange : Prop :=
  ∀ (v : Byte) (s : State),
    (v.toNat ≤ 15 → exec (.psgAddrWr v) s = .next { s with psgLatch := v }) ∧
    (15 < v.toNat → exec (.psgAddrWr v) s = .next { s with trace := .diag (.psgAddress v) :: s.trace })

/-- R168: register 14 stores the mask, recomputes and is forwarded; any other register is forwarded only; a latch
above 15 is a Fatal abort. -/
def Obligations.PsgDataWriteFeedsTheMask : Prop :=
  ∀ (v : Byte) (s : State),
    (s.psgLatch = 14 → exec (.psgDataWr v) s = .next { s with
      mask := v
      trace := .psgWrite 14 v :: (lineEvents { s with mask := v } ++ s.trace) }) ∧
    (s.psgLatch.toNat ≤ 15 → s.psgLatch ≠ 14 → exec (.psgDataWr v) s =
      .next { s with trace := .psgWrite s.psgLatch v :: s.trace }) ∧
    (15 < s.psgLatch.toNat → exec (.psgDataWr v) s = .fault (.fatal .psgLatchRange { s with faulted := true }))

/-- R169: register 14 reads as the mask, 15 as the port-B mirror, any other as the PSG answers; a latch above 15 is a
Fatal abort. -/
def Obligations.PsgDataReadReturnsMaskOrMirror : Prop :=
  ∀ s : State,
    (s.psgLatch = 14 → exec .psgDataRd s = .next { s with trace := .reply s.mask :: s.trace }) ∧
    (s.psgLatch = 15 → exec .psgDataRd s = .next { s with trace := .reply (portb s) :: s.trace }) ∧
    (s.psgLatch.toNat ≤ 13 → exec .psgDataRd s = .next { s with
      answers := withoutByte s.answers
      trace := .reply (nextByte s) :: .psgRead s.psgLatch :: s.trace }) ∧
    (15 < s.psgLatch.toNat → exec .psgDataRd s = .fault (.fatal .psgLatchRange { s with faulted := true }))

/-- R170, R171: an HCCA read returns the modem's byte and clears `rx`, with a recompute; a write goes to the modem and
changes nothing, `tx` included. -/
def Obligations.HccaReadClearsRx : Prop :=
  ∀ (v : Byte) (s : State),
    exec .hccaRd s = .next { s with
      answers := withoutByte s.answers
      rx := false
      trace := .reply (nextByte s) :: (lineEvents { s with rx := false } ++ .modemRead :: s.trace) } ∧
    exec (.hccaWr v) s = .next { s with trace := .modemWrite v :: s.trace }

/-- R172, R173: a keyboard read pops the queue, or returns any byte when it is empty, and clears `key`; a write is
ignored with a diagnostic. -/
def Obligations.KeyboardReadPopsAndClearsKey : Prop :=
  ∀ (v : Byte) (s : State),
    (s.kqRd ≠ s.kqWr → exec .kbdRd s = .next { s with
      kqRd := s.kqRd + 1
      key := false
      trace := .reply (Memory.read s.kq s.kqRd.toNat) :: (lineEvents { s with key := false } ++ s.trace) }) ∧
    (s.kqRd = s.kqWr → exec .kbdRd s = .next { s with
      answers := withoutByte s.answers
      key := false
      trace := .reply (nextByte s) :: (lineEvents { s with key := false } ++ s.trace) }) ∧
    exec (.kbdWr v) s = .next { s with trace := .diag (.keyboardWrite v) :: s.trace }

/-- R176 to R179: VDP accesses are forwarded; only the status read changes the block, clearing `vblank`. -/
def Obligations.VdpStatusReadClearsVblank : Prop :=
  ∀ (v : Byte) (s : State),
    exec .vdpCtrlRd s = .next { s with
      answers := withoutByte s.answers
      vblank := false
      trace := .reply (nextByte s) :: (lineEvents { s with vblank := false } ++ .vdpStatusRead :: s.trace) } ∧
    exec .vdpDataRd s = .next { s with
      answers := withoutByte s.answers
      trace := .reply (nextByte s) :: .vdpDataRead :: s.trace } ∧
    exec (.vdpDataWr v) s = .next { s with trace := .vdpDataWrite v :: s.trace } ∧
    exec (.vdpCtrlWr v) s = .next { s with trace := .vdpControlWrite v :: s.trace }

/-- From R11, R162, R163: an access the CPU makes inside a CPU phase is the operation its bus cycle decodes to. The
kind bytes 0x03 and 0x04 of the port clauses are the model's own encoding (log entry 1, DESIGN CHOICE), not the
spec's. -/
def Obligations.CpuAccessIsTheDecodedOperation : Prop :=
  ∀ (s : State) (a : Addr) (q : Port) (v : Byte) (rest : List Byte),
    busAccess (.memRead a) s = exec (.memRd a) s ∧
    busAccess (.memWrite a v) s = exec (.memWr a v) s ∧
    (∃ i, decode s.params (0x03 :: q :: rest) = .ok (i, rest) ∧ busAccess (.portRead q) s = exec i s) ∧
    (∃ i, decode s.params (0x04 :: q :: v :: rest) = .ok (i, rest) ∧ busAccess (.portWrite q v) s = exec i s)

/-! ### The Floppy Controller (42_floppy_controller.md) -/

/-- R213 to R216, R218, R220: the track and sector registers read back with no side effect, and each floppy register
write stores the byte and changes nothing else. -/
def Obligations.FloppyRegistersReadAndStore : Prop :=
  ∀ (v : Byte) (s : State),
    exec .fdcTrackRd s = .next { s with trace := .reply s.fdc.track :: s.trace } ∧
    exec .fdcSectorRd s = .next { s with trace := .reply s.fdc.sector :: s.trace } ∧
    exec (.fdcTrackWr v) s = .next { s with fdc := { s.fdc with track := v } } ∧
    exec (.fdcSectorWr v) s = .next { s with fdc := { s.fdc with sector := v } } ∧
    exec (.fdcDataWr v) s = .next { s with fdc := { s.fdc with data := v } } ∧
    exec (.fdcSelWr v) s = .next { s with fdc := { s.fdc with driveSelect := v } }

/-- R95, R212: the byte a status read returns, bit by bit, in a state that keeps R49 items 1 to 3. -/
def Obligations.StatusReadLayout : Prop :=
  ∀ s : State, fdcInvariants s.fdc = true →
    ∃ b : Byte, exec .fdcStatusRd s = .next { s with trace := .reply b :: s.trace } ∧
      (s.fdc.mode = .idle → b.getLsbD 0 = false ∧
        (b.getLsbD 1 = true ↔ s.fdc.rot = 0 ∧
          ∃ d img, driveOf s.fdc.driveSelect = some d ∧ driveImage d s = some img)) ∧
      (s.fdc.mode = .streamingRead → b.getLsbD 0 = s.fdc.status.getLsbD 0 ∧ b.getLsbD 1 = true) ∧
      b.getLsbD 2 = false ∧ b.getLsbD 3 = false ∧ b.getLsbD 4 = s.fdc.status.getLsbD 4 ∧
      b.getLsbD 5 = false ∧ b.getLsbD 6 = false ∧ b.getLsbD 7 = s.fdc.status.getLsbD 7

/-- R230, R231: the rotation counter advances modulo the period in every mode; INDEX is active in Idle, at rotation
count 0, with a disk in the selected drive. -/
def Obligations.IndexFollowsRotationAndDisk : Prop :=
  ∀ s : State,
    exec .fdcTick s = .next { s with fdc := { s.fdc with rot := (s.fdc.rot + 1) % s.params.indexPeriod } } ∧
    ∃ v : Bool, exec .indexActive s = .next { s with trace := .replyBool v :: s.trace } ∧
      (v = true ↔ s.fdc.mode = .idle ∧ s.fdc.rot = 0 ∧
        ∃ d img, driveOf s.fdc.driveSelect = some d ∧ driveImage d s = some img)

/-- R211, R228: the one path into Idle and the one into StreamingRead, with what each leaves unchanged. -/
def Obligations.IdleAndStreamEntry : Prop :=
  ∀ (s : State) (bytes : List Byte),
    (∃ st : Byte, exec .enterIdle s =
        .next { s with fdc := { s.fdc with mode := .idle, status := st, streamDrive := none } } ∧
      st.getLsbD 0 = false ∧ st.getLsbD 1 = false ∧
      ∀ j, 2 ≤ j → st.getLsbD j = s.fdc.status.getLsbD j) ∧
    (∃ (st : Byte) (m : Memory), exec (.loadStream bytes) s =
        .next { s with fdc := { s.fdc with mode := .streamingRead, status := st, buf := m, len := bytes.length,
                                           cursor := 0, streamDrive := driveOf s.fdc.driveSelect } } ∧
      st.getLsbD 0 = true ∧ st.getLsbD 1 = true ∧ (∀ j, 2 ≤ j → st.getLsbD j = s.fdc.status.getLsbD j) ∧
      ∀ j, Memory.read m j = if j < bytes.length then bytes.getD j 0 else Memory.read s.fdc.buf j)

/-- R217's pseudocode: one data-register read in Idle, in the middle of a stream, and at its last byte. -/
def Obligations.DataReadAdvancesTheStream : Prop :=
  ∀ s : State,
    (s.fdc.mode = .idle → exec .fdcDataRd s = .next { s with trace := .reply s.fdc.data :: s.trace }) ∧
    (s.fdc.mode = .streamingRead → s.fdc.cursor + 1 ≠ s.fdc.len →
      exec .fdcDataRd s = .next { s with
        fdc := { s.fdc with data := Memory.read s.fdc.buf s.fdc.cursor, cursor := s.fdc.cursor + 1 }
        trace := .reply (Memory.read s.fdc.buf s.fdc.cursor) :: s.trace }) ∧
    (s.fdc.mode = .streamingRead → s.fdc.cursor + 1 = s.fdc.len →
      ∃ st : Byte, exec .fdcDataRd s = .next { s with
        fdc := { s.fdc with data := Memory.read s.fdc.buf s.fdc.cursor, cursor := s.fdc.cursor + 1,
                            mode := .idle, status := st, streamDrive := none }
        trace := .reply (Memory.read s.fdc.buf s.fdc.cursor) :: s.trace } ∧
      st.getLsbD 0 = false ∧ st.getLsbD 1 = false ∧ ∀ j, 2 ≤ j → st.getLsbD j = s.fdc.status.getLsbD j)

/-- R217: a stream with N bytes left takes exactly N reads, which return them in order; before the Nth read the
controller streams, the Nth read enters Idle with BUSY and DRQ clear, and the read after it returns the last byte
again and changes nothing. -/
def Obligations.StreamDrainsInExactlyItsLength : Prop :=
  ∀ s : State, s.fdc.mode = .streamingRead → s.fdc.cursor < s.fdc.len →
    ∀ k, s.fdc.cursor + k ≤ s.fdc.len →
    ∃ t, repeatExec k .fdcDataRd s = .next t ∧
      t = { s with fdc := t.fdc, trace := t.trace } ∧
      replies t.trace =
        ((List.range k).map fun j => Memory.read s.fdc.buf (s.fdc.cursor + j)).reverse ++ replies s.trace ∧
      t.fdc.cursor = s.fdc.cursor + k ∧ t.fdc.len = s.fdc.len ∧ t.fdc.buf = s.fdc.buf ∧
      t.fdc.track = s.fdc.track ∧ t.fdc.sector = s.fdc.sector ∧ t.fdc.driveSelect = s.fdc.driveSelect ∧
      t.fdc.rot = s.fdc.rot ∧
      (s.fdc.cursor + k < s.fdc.len → t.fdc.mode = .streamingRead ∧ t.fdc.status = s.fdc.status ∧
        t.fdc.streamDrive = s.fdc.streamDrive) ∧
      (s.fdc.cursor + k = s.fdc.len → t.fdc.mode = .idle ∧ t.fdc.status.getLsbD 0 = false ∧
        t.fdc.status.getLsbD 1 = false ∧ t.fdc.streamDrive = none ∧
        t.fdc.data = Memory.read s.fdc.buf (s.fdc.len - 1) ∧
        exec .fdcDataRd t =
          .next { t with trace := .reply (Memory.read s.fdc.buf (s.fdc.len - 1)) :: t.trace })

/-- R221: the command write runs the operation of the class P_CMD_DECODE gives the byte, in either mode, and always
answers a next state. -/
def Obligations.CommandWriteRunsItsClass : Prop :=
  ∀ (c : Byte) (s : State),
    (∃ t, exec (.fdcCmdWr c) s = .next t) ∧
    (cmdClass s.params.cmdDecode c = .restore → exec (.fdcCmdWr c) s = exec (.fdcRestore c) s) ∧
    (cmdClass s.params.cmdDecode c = .readSector → exec (.fdcCmdWr c) s = exec (.fdcReadSector c) s) ∧
    (cmdClass s.params.cmdDecode c = .status → exec (.fdcCmdWr c) s = exec (.fdcStatus c) s) ∧
    (cmdClass s.params.cmdDecode c = .irqAck → exec (.fdcCmdWr c) s = exec (.fdcIrqAck c) s) ∧
    (cmdClass s.params.cmdDecode c = .diag → exec (.fdcCmdWr c) s = exec (.fdcDiag c) s) ∧
    (cmdClass s.params.cmdDecode c = .other → exec (.fdcCmdWr c) s = exec (.fdcOther c) s)

/-- R222, R226, R227: RESTORE, IRQ ACK and OTHER, with every status bit they leave. -/
def Obligations.RestoreAckAndOtherCommands : Prop :=
  ∀ (c : Byte) (s : State),
    (∃ st : Byte, exec (.fdcRestore c) s =
        .next { s with fdc := { s.fdc with track := 0, mode := .idle, status := st, streamDrive := none } } ∧
      st.getLsbD 0 = false ∧ st.getLsbD 1 = false ∧ st.getLsbD 7 = false ∧
      ∀ j, 2 ≤ j → j ≤ 6 → st.getLsbD j = s.fdc.status.getLsbD j) ∧
    (∃ st : Byte, exec (.fdcIrqAck c) s = .next { s with fdc := { s.fdc with status := st } } ∧
      st.getLsbD 0 = false ∧ st.getLsbD 7 = false ∧
      ∀ j, 1 ≤ j → j ≤ 6 → st.getLsbD j = s.fdc.status.getLsbD j) ∧
    exec (.fdcOther c) s = .next { s with trace := .diag (.unknownCommand c) :: s.trace }

/-- R224, R225: STATUS streams the six-byte status block, DIAG the 38-byte pattern; no disk is checked and the error
bits stay. -/
def Obligations.StatusAndDiagStreamTheirBlocks : Prop :=
  ∀ (c : Byte) (s : State),
    (∃ (st : Byte) (m : Memory), exec (.fdcStatus c) s =
        .next { s with fdc := { s.fdc with mode := .streamingRead, status := st, buf := m, len := 6, cursor := 0,
                                           streamDrive := driveOf s.fdc.driveSelect } } ∧
      st.getLsbD 0 = true ∧ st.getLsbD 1 = true ∧ (∀ j, 2 ≤ j → st.getLsbD j = s.fdc.status.getLsbD j) ∧
      Memory.read m 0 = s.fdc.track ∧ Memory.read m 1 = 0 ∧ Memory.read m 2 = s.fdc.sector ∧
      Memory.read m 3 = s.params.rateCode ∧ Memory.read m 4 = s.params.crc0 ∧ Memory.read m 5 = s.params.crc1 ∧
      ∀ j, 6 ≤ j → Memory.read m j = Memory.read s.fdc.buf j) ∧
    (∃ (st : Byte) (m : Memory), exec (.fdcDiag c) s =
        .next { s with fdc := { s.fdc with mode := .streamingRead, status := st, buf := m, len := 38, cursor := 0,
                                           streamDrive := driveOf s.fdc.driveSelect } } ∧
      st.getLsbD 0 = true ∧ st.getLsbD 1 = true ∧ (∀ j, 2 ≤ j → st.getLsbD j = s.fdc.status.getLsbD j) ∧
      ∀ j, Memory.read m j = if j < 38 then s.params.syncPattern.getD j 0 else Memory.read s.fdc.buf j)

/-- R223: what READ SECTOR does, for every state: the four failures in the order of the checks, and the load. -/
def Obligations.ReadSectorOutcome : Prop :=
  ∀ (c : Byte) (s : State),
    ∃ t, exec (.fdcReadSector c) s = .next t ∧ t = { s with fdc := t.fdc, trace := t.trace } ∧
      t.fdc.track = s.fdc.track ∧ t.fdc.sector = s.fdc.sector ∧ t.fdc.data = s.fdc.data ∧
      t.fdc.driveSelect = s.fdc.driveSelect ∧ t.fdc.rot = s.fdc.rot ∧
      (∀ j, j = 2 ∨ j = 3 ∨ j = 5 ∨ j = 6 → t.fdc.status.getLsbD j = s.fdc.status.getLsbD j) ∧
      match driveOf s.fdc.driveSelect with
      | none => ReadSectorFailed s t 7 .badDrive
      | some d =>
        match driveImage d s with
        | none => ReadSectorFailed s t 7 .noDisk
        | some img =>
          if s.fdc.sector.toNat < 1 ∨ sectorsPerTrack s.params img.geometry < s.fdc.sector.toNat then
            ReadSectorFailed s t 4 .badSector
          else if geometryBytes img.geometry <
              (s.fdc.track.toNat * sectorsPerTrack s.params img.geometry + (s.fdc.sector.toNat - 1)) * 1024 + 1024 then
            ReadSectorFailed s t 4 .beyondImage
          else ReadSectorLoaded s t d img
            ((s.fdc.track.toNat * sectorsPerTrack s.params img.geometry + (s.fdc.sector.toNat - 1)) * 1024)

/-- R217, R223, R228 together: READ SECTOR on a sector inside the image, then k data reads, return the image's bytes
from the sector's offset on; the 1024th read, and no earlier one, ends BUSY. -/
def Obligations.ReadSectorThenReadsReturnTheImage : Prop :=
  ∀ (c : Byte) (s : State) (d : DriveId) (img : Image), driveOf s.fdc.driveSelect = some d →
    driveImage d s = some img → 1 ≤ s.fdc.sector.toNat →
    s.fdc.sector.toNat ≤ sectorsPerTrack s.params img.geometry →
    (s.fdc.track.toNat * sectorsPerTrack s.params img.geometry + (s.fdc.sector.toNat - 1)) * 1024 + 1024
      ≤ geometryBytes img.geometry →
    ∀ k, k ≤ 1024 →
    ∃ t u, exec (.fdcReadSector c) s = .next t ∧ repeatExec k .fdcDataRd t = .next u ∧
      replies u.trace = ((List.range k).map fun j => Memory.read img.data
        ((s.fdc.track.toNat * sectorsPerTrack s.params img.geometry + (s.fdc.sector.toNat - 1)) * 1024 + j)).reverse
          ++ replies s.trace ∧
      (k < 1024 → u.fdc.mode = .streamingRead ∧ u.fdc.status.getLsbD 0 = true ∧ u.fdc.status.getLsbD 1 = true) ∧
      (k = 1024 → u.fdc.mode = .idle ∧ u.fdc.status.getLsbD 0 = false ∧ u.fdc.status.getLsbD 1 = false) ∧
      u.drive0 = s.drive0 ∧ u.drive1 = s.drive1

/-- R240: the checks of INSERT in their order, each refusing with the state unchanged, and the insertion. -/
def Obligations.InsertChecksThenStoresTheImage : Prop :=
  ∀ (d : Byte) (o : Option RawImage) (s : State),
    (driveOf d = none → exec (.insert d o) s = .refused (.configError .noSuchDrive)) ∧
    ∀ dr, driveOf d = some dr →
      exec (.insert d none) s = .refused (.configError .missingFile) ∧
      ∀ raw : RawImage,
        (raw.size ≠ 204800 → raw.size ≠ 409600 → raw.size ≠ 819200 →
          exec (.insert d (some raw)) s = .refused (.configError .imageSize)) ∧
        (raw.size = 204800 ∨ raw.size = 409600 ∨ raw.size = 819200 →
          (driveImage dr s ≠ none → exec (.insert d (some raw)) s = .refused (.configError .driveOccupied)) ∧
          (driveImage dr s = none → ∃ img t, exec (.insert d (some raw)) s = .next t ∧
            t = setDriveImage dr (some img) s ∧ geometryBytes img.geometry = raw.size ∧
            (∀ a, a < raw.size → Memory.read img.data a = Memory.read raw.data a) ∧
            driveImage dr t = some img ∧ ∀ e, e ≠ dr → driveImage e t = driveImage e s))

/-- R241: EJECT of a drive that does not exist is refused, of an empty drive a diagnostic; the drive being streamed
aborts the stream; any other only empties the drive. -/
def Obligations.EjectAbortsOnlyItsOwnStream : Prop :=
  ∀ (d : Byte) (s : State),
    (driveOf d = none → exec (.eject d) s = .refused (.configError .noSuchDrive)) ∧
    ∀ dr, driveOf d = some dr →
      (driveImage dr s = none → exec (.eject d) s = .next { s with trace := .diag (.driveEmpty dr) :: s.trace }) ∧
      (driveImage dr s ≠ none → ¬ (s.fdc.mode = .streamingRead ∧ s.fdc.streamDrive = some dr) →
        exec (.eject d) s = .next (setDriveImage dr none s)) ∧
      (driveImage dr s ≠ none → s.fdc.mode = .streamingRead → s.fdc.streamDrive = some dr →
        ∃ st : Byte, exec (.eject d) s = .next (setDriveImage dr none
            { s with fdc := { s.fdc with mode := .idle, status := st, streamDrive := none } }) ∧
          st.getLsbD 0 = false ∧ st.getLsbD 1 = false ∧ ∀ j, 2 ≤ j → st.getLsbD j = s.fdc.status.getLsbD j)

/-- R242, the spec's own inference: ejecting a disk and inserting the same bytes again gives the drive an image that
reads the same everywhere. -/
def Obligations.EjectInsertRoundTrip : Prop :=
  ∀ (d : Byte) (dr : DriveId) (img : Image) (s : State), driveOf d = some dr → driveImage dr s = some img →
    ∃ t img', execAll [.eject d, .insert d (some ⟨geometryBytes img.geometry, img.data⟩)] s = .next t ∧
      driveImage dr t = some img' ∧ img'.geometry = img.geometry ∧
      ∀ a, a < geometryBytes img.geometry → Memory.read img'.data a = Memory.read img.data a

/-- R38, R242: no operation changes what a drive holds but INSERT, EJECT and those a CPU phase, in which the host may
act, is part of. -/
def Obligations.ImagesChangeOnlyByTheHost : Prop :=
  ∀ (i : Instr) (s t : State), exec i s = .next t → (∀ d o, i ≠ .insert d o) → (∀ d, i ≠ .eject d) →
    i ≠ .cpuPhase → i ≠ .slice → i ≠ .run → t.drive0 = s.drive0 ∧ t.drive1 = s.drive1

/-! ### The Scheduler (43_scheduler.md) and the keyboard queue -/

/-- R262: the loop of the CPU phase, its end and what it leaves, while the PSG latch is in range. -/
def Obligations.CpuPhaseReachesTheBoundary : Prop :=
  ∀ s : State, s.psgLatch.toNat ≤ 15 →
    (s.nextBoundary ≤ s.cycles → exec .cpuPhase s = .next s) ∧
    (s.cycles < s.nextBoundary → exec .cpuPhase s = andThen (cpuStep s) (exec .cpuPhase)) ∧
    ∃ t, exec .cpuPhase s = .next t ∧ t.nextBoundary ≤ t.cycles ∧ s.cycles ≤ t.cycles ∧
      t.psgLatch.toNat ≤ 15 ∧ t.nextBoundary = s.nextBoundary ∧ t.slice = s.slice ∧ t.kbdIdle = s.kbdIdle ∧
      t.fdc.rot = s.fdc.rot ∧ t.rom = s.rom ∧ t.romSize = s.romSize ∧ t.params = s.params ∧
      t.input = s.input ∧ t.runState = s.runState ∧ t.faulted = s.faulted

/-- R264: housekeeping is exactly its four steps in their order. -/
def Obligations.HousekeepingRunsFourSteps : Prop :=
  ∀ s : State, ∃ t, exec .housekeeping s = .next t ∧
    execAll [.fdcTick, .rxPoll, .keyPromote, .watchdog] s = .next t

/-- R266, R267: `rx` is set if the modem reports bytes and never cleared here; `key` is set if the queue is not empty
and `key` is clear. -/
def Obligations.PollAndPromoteSetTheirFlags : Prop :=
  ∀ s : State,
    (nextBool s = true → exec .rxPoll s = .next { s with
      answers := withoutBool s.answers
      rx := true
      trace := lineEvents { s with rx := true } ++ .modemPoll :: s.trace }) ∧
    (nextBool s = false → exec .rxPoll s = .next { s with
      answers := withoutBool s.answers
      trace := .modemPoll :: s.trace }) ∧
    (s.kqRd ≠ s.kqWr → s.key = false → exec .keyPromote s =
      .next { s with key := true, trace := lineEvents { s with key := true } ++ s.trace }) ∧
    (s.kqRd = s.kqWr ∨ s.key = true → exec .keyPromote s = .next s)

/-- R268: the watchdog counts empty housekeepings, injects the keep-alive code at the threshold, and starts again. -/
def Obligations.WatchdogCountsAndInjects : Prop :=
  ∀ s : State,
    (s.kqRd = s.kqWr → s.kbdIdle + 1 = s.params.watchdogSlices → exec .watchdog s = .next { s with
      kq := Memory.write s.kq s.kqWr.toNat s.params.keepaliveCode
      kqWr := s.kqWr + 1
      kbdIdle := 0 }) ∧
    (s.kqRd = s.kqWr → s.kbdIdle + 1 ≠ s.params.watchdogSlices →
      exec .watchdog s = .next { s with kbdIdle := s.kbdIdle + 1 }) ∧
    (s.kqRd ≠ s.kqWr → exec .watchdog s = .next { s with kbdIdle := 0 })

/-- R281: with the queue empty and the counter 0, fewer watchdog steps than the threshold inject nothing, and exactly
the threshold number of them inject one keep-alive code and leave the counter 0. -/
def Obligations.WatchdogInjectsOnceAtThreshold : Prop :=
  ∀ s : State, s.kqRd = s.kqWr → s.kbdIdle = 0 → 1 ≤ s.params.watchdogSlices → Memory.wf s.kq = true →
    (∀ k, k < s.params.watchdogSlices → repeatExec k .watchdog s = .next { s with kbdIdle := k }) ∧
    ∃ m, repeatExec s.params.watchdogSlices .watchdog s =
        .next { s with kq := m, kqWr := s.kqWr + 1, kbdIdle := 0 } ∧
      Memory.read m s.kqWr.toNat = s.params.keepaliveCode ∧
      ∀ a, a ≠ s.kqWr.toNat → Memory.read m a = Memory.read s.kq a

/-- R270, R271, with R269 and R272: the slice index, the row rendered, the frame's end and the boundary. -/
def Obligations.SliceIndexFrameAndBoundary : Prop :=
  ∀ s : State,
    exec .sliceIncrement s = .next { s with slice := s.slice + 1 } ∧
    exec .boundaryAdvance s = .next { s with nextBoundary := s.nextBoundary + s.params.cyclesPerSlice } ∧
    exec .renderCheck s = .next { s with
      trace := if s.params.visibleFirst ≤ s.slice ∧ s.slice < s.params.visibleFirst + s.params.visibleCount
        then .renderRow s.slice :: s.trace else s.trace } ∧
    (s.slice ≠ s.params.slicesPerFrame → exec .frameCheck s = .next s) ∧
    (s.slice = s.params.slicesPerFrame → nextBool s = false → exec .frameCheck s = .next { s with
      slice := 0
      answers := withoutBool s.answers
      trace := .vdpVblankEnable :: .frameComplete :: s.trace }) ∧
    (s.slice = s.params.slicesPerFrame → nextBool s = true → exec .frameCheck s = .next { s with
      slice := 0
      answers := withoutBool s.answers
      vblank := true
      trace := lineEvents { s with vblank := true } ++ .vdpVblankEnable :: .frameComplete :: s.trace })

/-- R261: a slice is its CPU phase and then, in the fixed order, housekeeping, increment, render check, frame check,
boundary advance and stop check; it completes whenever the PSG latch is in range; the boundary moves by the fixed
increment and R49 item 6 holds after it. -/
def Obligations.SliceRunsItsPartsInOrder : Prop :=
  ∀ s : State, s.psgLatch.toNat ≤ 15 →
    ∃ u t, exec .cpuPhase s = .next u ∧
      execAll [.housekeeping, .sliceIncrement, .renderCheck, .frameCheck, .boundaryAdvance, .stopCheck] u = .next t ∧
      exec .slice s = .next t ∧ t.nextBoundary = s.nextBoundary + s.params.cyclesPerSlice ∧
      t.nextBoundary ≤ t.cycles + t.params.cyclesPerSlice

/-- R43, R49 item 5: a slice that starts inside the frame ends inside it. -/
def Obligations.SliceStaysInsideTheFrame : Prop :=
  ∀ s t : State, 1 ≤ s.params.slicesPerFrame → BetweenSlices s → exec .slice s = .next t → BetweenSlices t

/-- R274: STOP sets the flag; the stop check ends the run where it is set, and the rest of the state stays. -/
def Obligations.StopEndsTheRunAtTheCheck : Prop :=
  ∀ s : State,
    exec .stop s = .next { s with stop := true } ∧
    (s.stop = true → exec .stopCheck s = .next { s with runState := .ended }) ∧
    (s.stop = false → exec .stopCheck s = .next s)

/-- R275 and R322; that one RUN operation is one iteration that leaves the run going is the model's choice (log entry
16): with a ROM loaded RUN runs a slice, and with none it is refused. -/
def Obligations.RunIsARepeatedSlice : Prop :=
  ∀ s : State,
    (s.romSize = .unloaded → exec .run s = .refused (.configError .noRom)) ∧
    (s.romSize ≠ .unloaded → s.psgLatch.toNat ≤ 15 →
      ∃ u, exec .slice s = .next u ∧
        (u.runState = .ended → exec .run s = .next u) ∧
        (u.runState ≠ .ended → exec .run s = .next { u with runState := .running })) ∧
    (s.faulted = false → paramsOk s.params = true → s.runState = .running → s.input = [] →
      invariants s = true → BetweenSlices s → step s = exec .slice s)

/-- R279: a push stores the byte at the write index and advances it; `key` and all else stay. -/
def Obligations.KeyPushStoresOneByte : Prop :=
  ∀ (b : Byte) (s : State), Memory.wf s.kq = true →
    ∃ m, exec (.keyPush b) s = .next { s with kq := m, kqWr := s.kqWr + 1 } ∧
      Memory.read m s.kqWr.toNat = b ∧ ∀ a, a ≠ s.kqWr.toNat → Memory.read m a = Memory.read s.kq a

/-- R40, R331: from an empty queue, pushing 1 to 255 bytes leaves it not empty, and the 256th makes it read as empty
again. -/
def Obligations.QueueReadsEmptyAfter256Pushes : Prop :=
  ∀ (bs : List Byte) (s : State), s.kqRd = s.kqWr →
    ∃ t, execAll (bs.map Instr.keyPush) s = .next t ∧ t.kqRd = s.kqRd ∧ t.key = s.key ∧
      (1 ≤ bs.length → bs.length ≤ 255 → t.kqRd ≠ t.kqWr) ∧ (bs.length = 256 → t.kqRd = t.kqWr)

/-- R40, R172: the queue is first in, first out: up to 255 bytes pushed on an empty queue come back in their order. -/
def Obligations.QueueReturnsBytesInOrder : Prop :=
  ∀ (bs : List Byte) (s : State), s.kqRd = s.kqWr → Memory.wf s.kq = true → bs.length ≤ 255 →
    ∃ t u, execAll (bs.map Instr.keyPush) s = .next t ∧ repeatExec bs.length .kbdRd t = .next u ∧
      replies u.trace = bs.reverse ++ replies s.trace ∧ u.kqRd = u.kqWr ∧ u.answers = s.answers

/-- R41: only the operations in which the CPU steps advance `cycles`, and none turns it back but RESET. -/
def Obligations.OnlyCpuStepsAdvanceCycles : Prop :=
  ∀ (i : Instr) (s t : State), exec i s = .next t →
    (i ≠ .cpuPhase → i ≠ .slice → i ≠ .run → i ≠ .reset → t.cycles = s.cycles) ∧
    (i ≠ .reset → s.cycles ≤ t.cycles)

/-! ### Errors, reset and the machine as a whole -/

/-- R22, R48: no operation changes the parameters, and none but ROM_LOAD the ROM. -/
def Obligations.RomAndParametersStayFixed : Prop :=
  ∀ (i : Instr) (s t : State), exec i s = .next t →
    t.params = s.params ∧ ((∀ img, i ≠ .romLoad img) → t.rom = s.rom ∧ t.romSize = s.romSize)

/-- R322; that a load is refused once the run has begun is the model's choice (log entry 17, from R17). -/
def Obligations.RomLoadAcceptsTwoSizes : Prop :=
  ∀ (img : RawImage) (s : State),
    (s.runState ≠ .notStarted → exec (.romLoad img) s = .refused (.configError .romAfterStart)) ∧
    (s.runState = .notStarted → img.size ≠ 4096 → img.size ≠ 8192 →
      exec (.romLoad img) s = .refused (.configError .romSize)) ∧
    (s.runState = .notStarted → img.size = 4096 ∨ img.size = 8192 →
      ∃ m z, exec (.romLoad img) s = .next { s with rom := m, romSize := z } ∧ romBytes z = img.size ∧
        ∀ a, Memory.read m a = if a < img.size then Memory.read img.data a else Memory.read s.rom a)

/-- R320: every field of the record at its reset value; ROM and drives stay (log entry 18: the model's reading), the
line is driven inactive. -/
def Obligations.ResetPutsEveryFieldAtItsValue : Prop :=
  ∀ s : State, ∃ t, exec .reset s = .next t ∧
    t.ram = s.params.initRam ∧ t.ctrl = 0x00 ∧ t.parLatch = 0x00 ∧ t.rx = false ∧ t.tx = false ∧ t.key = false ∧
    t.vblank = false ∧ t.mask = 0x00 ∧ t.psgLatch = 0 ∧ t.fdc.mode = .idle ∧ t.fdc.status = 0x00 ∧
    t.fdc.track = 0x00 ∧ t.fdc.sector = 0x00 ∧ t.fdc.data = 0x00 ∧ t.fdc.driveSelect = 0x00 ∧
    (∀ a, Memory.read t.fdc.buf a = 0) ∧ t.fdc.len = 0 ∧ t.fdc.cursor = 0 ∧ t.fdc.rot = 0 ∧
    t.fdc.streamDrive = none ∧ (∀ a, Memory.read t.kq a = 0) ∧ t.kqRd = 0 ∧ t.kqWr = 0 ∧ t.cycles = 0 ∧
    t.nextBoundary = s.params.cyclesPerSlice ∧ t.slice = 0 ∧ t.kbdIdle = 0 ∧ t.stop = false ∧ t.faulted = false ∧
    t.rom = s.rom ∧ t.romSize = s.romSize ∧ t.drive0 = s.drive0 ∧ t.drive1 = s.drive1 ∧ t.params = s.params ∧
    active t = false ∧ vector t = 0 ∧ portb t = 0x00 ∧
    t.trace = .psgPortB 0x00 :: .irqLine false 0 :: s.trace

/-- R20: the state the machine starts in has the values the spec gives; RAM is P_INIT_RAM (its default contents are
log entry 5). Left out, as the model's choices: `rom` and `romSize` (log entry 4), the two drives (log entry 18). -/
def Obligations.ResetStateHasTheSpecsValues : Prop :=
  State.reset.ram = State.reset.params.initRam ∧
  State.reset.ctrl = 0x00 ∧ State.reset.parLatch = 0x00 ∧ State.reset.rx = false ∧ State.reset.tx = false ∧
  State.reset.key = false ∧ State.reset.vblank = false ∧ State.reset.mask = 0x00 ∧ State.reset.psgLatch = 0 ∧
  State.reset.fdc.mode = .idle ∧ State.reset.fdc.status = 0x00 ∧ State.reset.fdc.track = 0x00 ∧
  State.reset.fdc.sector = 0x00 ∧ State.reset.fdc.data = 0x00 ∧ State.reset.fdc.driveSelect = 0x00 ∧
  (∀ a, Memory.read State.reset.fdc.buf a = 0) ∧ State.reset.fdc.len = 0 ∧ State.reset.fdc.cursor = 0 ∧
  State.reset.fdc.streamDrive = none ∧ State.reset.fdc.rot = 0 ∧ (∀ a, Memory.read State.reset.kq a = 0) ∧
  State.reset.kqRd = 0 ∧ State.reset.kqWr = 0 ∧ State.reset.cycles = 0 ∧
  State.reset.nextBoundary = State.reset.params.cyclesPerSlice ∧ State.reset.slice = 0 ∧
  State.reset.kbdIdle = 0 ∧ State.reset.stop = false ∧ State.reset.faulted = false

/-- Every invariant of the statements holds after reset; the line is inactive with vector 0 (R320). -/
def Obligations.ResetMeetsEveryInvariant : Prop :=
  Inv State.reset ∧ BetweenSlices State.reset ∧ LineDriven State.reset ∧ active State.reset = false ∧
  vector State.reset = 0 ∧ portb State.reset = 0x00

/-- From R49, R35, R38: every step from a state that meets `Inv` gives one that meets it. `Inv` has items 1 to 4 of
R49, of item 5 the bounds on `kbd_idle` and `fdc.rot`, and for `slice` only `slice ≤ P_SLICES_PER_FRAME`, the model's
relaxation of item 5's `<` (log entry 15, from R269: the internal operations of a slice can be issued alone). The
strict bound between slices is `SliceStaysInsideTheFrame`; item 6 is not in `Inv`, it is in
`SliceRunsItsPartsInOrder`. -/
def Obligations.EveryStepKeepsTheInvariants : Prop :=
  ∀ s t : State, Inv s → step s = .next t → Inv t

/-- R166, R293, 90_conflicts.md C2: while the PSG latch is in range no operation is a Fatal abort, and none moves
the latch out of range. -/
def Obligations.NoOperationIsFatalInRange : Prop :=
  ∀ (i : Instr) (s : State), s.psgLatch.toNat ≤ 15 →
    NoFault (exec i s) ∧ ∀ t, exec i s = .next t → t.psgLatch.toNat ≤ 15

/-- From R46, R274, R293: a faulted machine does nothing more; an ended run stays as it is; a state that breaks an
invariant of R49 is a Fatal abort, which sets `faulted`. The model's choices: that a faulted machine's step is again a
fault, and that R49 is checked only where an operation is pending, with `slice ≤ P_SLICES_PER_FRAME` (log entries 15 and 29,
DEDUCED and DESIGN CHOICE); that the step of an ended run answers the same state (log entry 16, DESIGN CHOICE). -/
def Obligations.FaultedAndEndedMachinesStop : Prop :=
  ∀ s : State,
    (s.faulted = true → step s = .fault (.fatal .alreadyFaulted { s with faulted := true })) ∧
    (s.faulted = false → paramsOk s.params = true → s.runState = .ended → step s = .next s) ∧
    (s.faulted = false → paramsOk s.params = true → s.runState ≠ .ended → invariants s = false →
      ∀ b bs i rest, s.input = b :: bs → decode s.params (b :: bs) = .ok (i, rest) →
        step s = .fault (.fatal .invariantBroken { s with faulted := true }))

/-- From R10: a step runs the decoded pending operation: `exec` of it on the state with its bytes taken from the
input. The model's choices: the byte stream (log entry 1), and before which operations `slice < P_SLICES_PER_FRAME` is
asked (log entries 15 and 29). -/
def Obligations.StepRunsTheDecodedOperation : Prop :=
  ∀ (s : State) (i : Instr) (rest : List Byte), s.faulted = false → paramsOk s.params = true →
    s.runState ≠ .ended → decode s.params s.input = .ok (i, rest) → invariants s = true →
    (beginsSlice i = true → BetweenSlices s) →
    step s = exec i { s with input := rest }

/-- Decoding the bytes of a well-formed operation gives it back, with the bytes after it. -/
def Obligations.DecodeInvertsEncode : Prop :=
  ∀ (p : Params) (i : Instr) (rest : List Byte), paramsOk p = true → i.wellFormed p = true →
    decode p (encode p i ++ rest) = .ok (i, rest)

/-- Some bus cycles and command bytes, written out, decode under the default bindings to the operations they stand
for. The kind bytes are the model's own encoding (log entry 1, DESIGN CHOICE); the port map and the command decode are
the defaults of R91 and R96, which the spec itself takes from general knowledge (log entries 7 and 9, PRESUMED). -/
def Obligations.WrittenWordsDecode : Prop :=
  decode defaultParams [0x01, 0x34, 0x12] = .ok (.memRd 0x1234, []) ∧
  decode defaultParams [0x02, 0x10, 0x00, 0xAA] = .ok (.memWr 0x0010 0xAA, []) ∧
  decode defaultParams [0x03, 0x40] = .ok (.psgDataRd, []) ∧
  decode defaultParams [0x04, 0x41, 0x0E] = .ok (.psgAddrWr 0x0E, []) ∧
  decode defaultParams [0x03, 0xC4] = .ok (.unmappedRd 0xC4, []) ∧
  decode defaultParams [0x04, 0xC0, 0x80] = .ok (.fdcCmdWr 0x80, []) ∧
  decode defaultParams [0x05, 0x9C] = .ok (.fdcReadSector 0x9C, []) ∧
  decode defaultParams [0x05, 0x7F] = .ok (.fdcOther 0x7F, []) ∧
  decode defaultParams [0x05, 0xDF] = .ok (.fdcIrqAck 0xDF, [])
end

