-- ==== Sys2Proof/Laws/Decode.lean ====
section
/-! SUPPORT. The small laws of the decoder and the encoder: numbers, cells and addresses there and back, and that a
decoded operation is well-formed. -/

namespace Sys2Proof

open Sys2Proof.Machine

@[simp] theorem hiByte_append_loByte (a : Addr) : (hiByte a ++ loByte a : BitVec 16) = a := by
  apply BitVec.eq_of_getLsbD_eq
  intro i hi
  simp only [hiByte, loByte, BitVec.getLsbD_append, BitVec.getLsbD_extractLsb']
  by_cases h : i < 8
  · simp [h]
  · have h2 : i - 8 < 8 := by omega
    have h3 : 8 + (i - 8) = i := by omega
    simp [h, h2, h3]

theorem takeNat32_nat32 {n : Nat} (h : n < 2 ^ 32) (r : List Byte) : takeNat32 (nat32 n ++ r) = some (n, r) := by
  simp only [nat32, List.cons_append, List.nil_append, takeNat32, BitVec.toNat_ofNat, Option.some.injEq,
    Prod.mk.injEq, and_true]
  norm_num at h ⊢
  omega

theorem takeBytes_append (xs r : List Byte) : takeBytes xs.length (xs ++ r) = some (xs, r) := by
  induction xs with
  | nil => rfl
  | cons x xs ih => simp [takeBytes, ih]

theorem takeBytes_length {n : Nat} {bs xs r : List Byte} (h : takeBytes n bs = some (xs, r)) : xs.length = n := by
  induction n generalizing bs xs r with
  | zero => simp [takeBytes] at h; simp [← h.1]
  | succ n ih =>
    cases bs with
    | nil => simp [takeBytes] at h
    | cons b bs =>
      simp only [takeBytes] at h
      cases hk : takeBytes n bs with
      | none => simp [hk] at h
      | some p =>
        obtain ⟨ys, r'⟩ := p
        simp only [hk, Option.some.injEq, Prod.mk.injEq] at h
        rw [← h.1]
        simp [ih hk]

theorem takeCells_encodeCells {m : Memory} (h : Memory.below (2 ^ 32) m = true) (r : List Byte) :
    takeCells m.length (encodeCells m ++ r) = some (m, r) := by
  induction m with
  | nil => rfl
  | cons c t ih =>
    obtain ⟨a, v⟩ := c
    simp only [Memory.below, List.all_cons, Bool.and_eq_true, decide_eq_true_eq] at h
    have ht := ih h.2
    simp only [List.length_cons, encodeCells, takeCells, List.append_assoc, List.cons_append,
      takeNat32_nat32 h.1, ht]

/-- The port an encoder takes for a handler is one of that handler's ports. -/
theorem portLookup_portOf {m : List (Port × Handler)} (ok : portMapOk m = true) {h : Handler} {q : Port}
    (e : portOf m h = some q) : portLookup m q = some h := by
  induction m with
  | nil => cases e
  | cons c t ih =>
    obtain ⟨q', g⟩ := c
    simp only [portMapOk, Bool.and_eq_true, Option.isNone_iff_eq_none] at ok
    by_cases hg : g = h
    · subst hg
      simp only [portOf, if_true, Option.some.injEq] at e
      simp [portLookup, e]
    · simp only [portOf, if_neg hg] at e
      have := ih ok.2 e
      by_cases hq : q' = q
      · subst hq
        rw [ok.1] at this
        cases this
      · simp [portLookup, hq, this]

/-- A port with a handler gives that handler a port. -/
theorem portOf_isSome {m : List (Port × Handler)} {q : Port} {h : Handler} (e : portLookup m q = some h) :
    (portOf m h).isSome = true := by
  induction m with
  | nil => cases e
  | cons c t ih =>
    obtain ⟨q', g⟩ := c
    by_cases hq : q' = q
    · subst hq
      simp only [portLookup, if_true, Option.some.injEq] at e
      simp [portOf, e]
    · simp only [portLookup, if_neg hq] at e
      by_cases hg : g = h
      · simp [portOf, hg]
      · simp [portOf, hg, ih e]

@[simp] theorem flagOfByte_byteOfFlag (f : Flag) : flagOfByte (byteOfFlag f) = some f := by cases f <;> rfl

theorem portReadInstr_wellFormed (p : Params) (q : Port) : (portReadInstr p q).wellFormed p = true := by
  unfold portReadInstr
  cases h : portLookup p.portMap q with
  | none => simp [Instr.wellFormed, portUnmapped, h]
  | some g => cases g <;> simpa [readInstr, Instr.wellFormed, handlerMapped] using portOf_isSome h

theorem portWriteInstr_wellFormed (p : Params) (q : Port) (v : Byte) :
    (portWriteInstr p q v).wellFormed p = true := by
  unfold portWriteInstr
  cases h : portLookup p.portMap q with
  | none => simp [Instr.wellFormed, portUnmapped, h]
  | some g => cases g <;> simpa [writeInstr, Instr.wellFormed, handlerMapped] using portOf_isSome h

theorem commandInstr_wellFormed (p : Params) (c : Byte) : (commandInstr p c).wellFormed p = true := by
  unfold commandInstr
  cases h : cmdClass p.cmdDecode c <;> simp [Instr.wellFormed, commandOf, h]

theorem take1_eq_ok {bs : List Byte} {f : Byte → List Byte → Decoded} {x : Instr × List Byte}
    (h : take1 bs f = .ok x) : ∃ b r, bs = b :: r ∧ f b r = .ok x := by
  cases bs with
  | nil => cases h
  | cons b r => exact ⟨b, r, rfl, h⟩

theorem take2_eq_ok {bs : List Byte} {f : Byte → Byte → List Byte → Decoded} {x : Instr × List Byte}
    (h : take2 bs f = .ok x) : ∃ a b r, bs = a :: b :: r ∧ f a b r = .ok x := by
  match bs, h with
  | a :: b :: r, h => exact ⟨a, b, r, rfl, h⟩
  | [_], h => cases h
  | [], h => cases h

theorem take3_eq_ok {bs : List Byte} {f : Byte → Byte → Byte → List Byte → Decoded} {x : Instr × List Byte}
    (h : take3 bs f = .ok x) : ∃ a b c r, bs = a :: b :: c :: r ∧ f a b c r = .ok x := by
  match bs, h with
  | a :: b :: c :: r, h => exact ⟨a, b, c, r, rfl, h⟩
  | [_, _], h => cases h
  | [_], h => cases h
  | [], h => cases h

theorem takeImage_eq_ok {bs : List Byte} {f : RawImage → List Byte → Decoded} {x : Instr × List Byte}
    (h : takeImage bs f = .ok x) : ∃ img r, RawImage.ok img = true ∧ f img r = .ok x := by
  unfold takeImage at h
  repeat' split at h
  all_goals first | exact ⟨_, _, ‹_›, h⟩ | cases h

theorem takeFlag_eq_ok {bs : List Byte} {f : Flag → Instr} {x : Instr × List Byte}
    (h : takeFlag bs f = .ok x) : ∃ g r, x = (f g, r) := by
  obtain ⟨b, r, -, h⟩ := take1_eq_ok h
  split at h
  · exact ⟨_, _, (Except.ok.inj h).symm⟩
  · cases h

theorem takeTxe_eq_ok {bs : List Byte} {x : Instr × List Byte} (h : takeTxe bs = .ok x) :
    ∃ v r, x = (.txe v, r) := by
  obtain ⟨b, r, -, h⟩ := take1_eq_ok h
  split at h
  · exact ⟨_, _, (Except.ok.inj h).symm⟩
  · split at h
    · exact ⟨_, _, (Except.ok.inj h).symm⟩
    · cases h

theorem takeInsert_eq_ok {bs : List Byte} {x : Instr × List Byte} (h : takeInsert bs = .ok x) :
    ∃ d o r, x = (.insert d o, r) ∧ ∀ img, o = some img → RawImage.ok img = true := by
  obtain ⟨d, b, r, -, h⟩ := take2_eq_ok h
  split at h
  · exact ⟨d, none, r, (Except.ok.inj h).symm, fun _ e => by cases e⟩
  · split at h
    · obtain ⟨img, r', ok, h⟩ := takeImage_eq_ok h
      exact ⟨d, some img, r', (Except.ok.inj h).symm, fun _ e => by cases e; exact ok⟩
    · cases h

theorem takeStream_eq_ok {bs : List Byte} {x : Instr × List Byte} (h : takeStream bs = .ok x) :
    ∃ xs r, x = (.loadStream xs, r) ∧ streamLengthOk xs = true := by
  obtain ⟨lo, hi, r, -, h⟩ := take2_eq_ok h
  dsimp only at h
  split at h
  · rename_i hn
    split at h
    · rename_i xs r' hx
      refine ⟨xs, r', (Except.ok.inj h).symm, ?_⟩
      have := takeBytes_length hx
      simp only [streamLengthOk, Bool.or_eq_true, beq_iff_eq]
      omega
    · cases h
  · cases h

/-- What the decoder gives is well-formed. -/
theorem decode_wellFormed {p : Params} {bs r : List Byte} {i : Instr} (h : decode p bs = .ok (i, r)) :
    i.wellFormed p = true := by
  cases bs with
  | nil => cases h
  | cons k t =>
    simp only [decode] at h
    split at h
    all_goals first
      | (cases h; done)
      | (cases h; rfl)
      | (obtain ⟨_, _, -, h⟩ := take1_eq_ok h; cases h; rfl)
      | (obtain ⟨_, _, _, -, h⟩ := take2_eq_ok h; cases h; rfl)
      | (obtain ⟨_, _, _, _, -, h⟩ := take3_eq_ok h; cases h; rfl)
      | (obtain ⟨_, _, -, h⟩ := take1_eq_ok h; cases h; exact portReadInstr_wellFormed _ _)
      | (obtain ⟨_, _, _, -, h⟩ := take2_eq_ok h; cases h; exact portWriteInstr_wellFormed _ _ _)
      | (obtain ⟨_, _, -, h⟩ := take1_eq_ok h; cases h; exact commandInstr_wellFormed _ _)
      | (obtain ⟨_, _, h⟩ := takeFlag_eq_ok h; cases h; rfl)
      | (obtain ⟨_, _, h⟩ := takeTxe_eq_ok h; cases h; rfl)
      | (obtain ⟨_, _, h, hs⟩ := takeStream_eq_ok h; cases h; exact hs)
      | (obtain ⟨_, _, ok, h⟩ := takeImage_eq_ok h; cases h; exact ok)
      | (obtain ⟨_, o, _, h, ok⟩ := takeInsert_eq_ok h; cases h
         cases o with
         | none => rfl
         | some img => exact ok img rfl)

end Sys2Proof
end

