-- ==== Sys2Proof/Laws/Memory.lean ====
section
/-! SUPPORT. The laws of byte arrays: reading after writing, and that every operation keeps the canonical form. -/

namespace Sys2Proof.Machine

theorem wfFrom_mono {lo lo' : Nat} {m : Memory} (h : lo' ≤ lo) (w : Memory.wfFrom lo m = true) :
    Memory.wfFrom lo' m = true := by
  cases m with
  | nil => rfl
  | cons c t =>
    simp only [Memory.wfFrom, Bool.and_eq_true, decide_eq_true_eq] at w ⊢
    exact ⟨⟨le_trans h w.1.1, w.1.2⟩, w.2⟩

/-- An address below the first listed one reads as blank. -/
theorem read_of_lt {lo a : Nat} {m : Memory} (w : Memory.wfFrom lo m = true) (h : a < lo) :
    Memory.read m a = Memory.blank := by
  induction m generalizing lo with
  | nil => rfl
  | cons c t ih =>
    simp only [Memory.wfFrom, Bool.and_eq_true, decide_eq_true_eq] at w
    have hk : c.1 ≠ a := by omega
    simp only [Memory.read, if_neg hk]
    exact ih w.2 (by omega)

/-- Read after write, same address; the array is canonical. -/
theorem read_write_same_from {lo : Nat} {m : Memory} (w : Memory.wfFrom lo m = true) (a : Nat) (v : Byte) :
    Memory.read (Memory.write m a v) a = v := by
  induction m generalizing lo with
  | nil => by_cases h : v = Memory.blank <;> simp [Memory.write, Memory.read, h]
  | cons c t ih =>
    obtain ⟨k, x⟩ := c
    have w' := w
    simp only [Memory.wfFrom, Bool.and_eq_true, decide_eq_true_eq] at w
    unfold Memory.write
    by_cases h1 : a < k
    · by_cases hv : v = Memory.blank
      · have : Memory.wfFrom k ((k, x) :: t) = true := by
          simp [Memory.wfFrom, w.1.2, w.2]
        simp only [if_pos h1, hv]
        exact read_of_lt this h1
      · simp [h1, hv, Memory.read]
    · by_cases h2 : a = k
      · subst h2
        by_cases hv : v = Memory.blank
        · simp only [if_neg h1, if_pos, hv]
          exact read_of_lt w.2 (Nat.lt_succ_self a)
        · simp [hv, Memory.read]
      · have h3 : k ≠ a := fun e => h2 e.symm
        simp only [if_neg h1, if_neg h2, Memory.read, if_neg h3]
        exact ih w.2

/-- Read after write, same address. -/
theorem read_write_same {m : Memory} (w : Memory.wf m = true) (a : Nat) (v : Byte) :
    Memory.read (Memory.write m a v) a = v := read_write_same_from w a v

/-- Read after write, another address. -/
theorem read_write_other (m : Memory) {a b : Nat} (v : Byte) (h : b ≠ a) :
    Memory.read (Memory.write m a v) b = Memory.read m b := by
  have h' : a ≠ b := fun e => h e.symm
  induction m with
  | nil => by_cases hv : v = Memory.blank <;> simp [Memory.write, Memory.read, hv, h']
  | cons c t ih =>
    obtain ⟨k, x⟩ := c
    unfold Memory.write
    by_cases h1 : a < k
    · by_cases hv : v = Memory.blank <;> simp [h1, hv, Memory.read, h']
    · by_cases h2 : a = k
      · subst h2
        by_cases hv : v = Memory.blank <;> simp [hv, Memory.read, h']
      · simp only [if_neg h1, if_neg h2, Memory.read, ih]

theorem wfFrom_write {lo : Nat} {m : Memory} (w : Memory.wfFrom lo m = true) {a : Nat} (h : lo ≤ a) (v : Byte) :
    Memory.wfFrom lo (Memory.write m a v) = true := by
  induction m generalizing lo with
  | nil => by_cases hv : v = Memory.blank <;> simp [Memory.write, Memory.wfFrom, hv, h]
  | cons c t ih =>
    obtain ⟨k, x⟩ := c
    have w' := w
    simp only [Memory.wfFrom, Bool.and_eq_true, decide_eq_true_eq] at w
    unfold Memory.write
    by_cases h1 : a < k
    · by_cases hv : v = Memory.blank
      · simp [h1, hv, Memory.wfFrom, w]
      · have : a + 1 ≤ k := h1
        simp [h1, hv, Memory.wfFrom, w, h, this]
    · by_cases h2 : a = k
      · subst h2
        by_cases hv : v = Memory.blank
        · simp only [if_neg h1, if_pos, if_pos hv]
          exact wfFrom_mono (by omega) w.2
        · simp [hv, Memory.wfFrom, w]
      · simp only [if_neg h1, if_neg h2, Memory.wfFrom, Bool.and_eq_true, decide_eq_true_eq]
        exact ⟨w.1, ih w.2 (by omega)⟩

/-- A write keeps the canonical form. -/
theorem wf_write {m : Memory} (w : Memory.wf m = true) (a : Nat) (v : Byte) :
    Memory.wf (Memory.write m a v) = true := wfFrom_write w (Nat.zero_le a) v

/-- A write below `n` keeps the array below `n`. -/
theorem below_write {n : Nat} {m : Memory} (w : Memory.below n m = true) {a : Nat} (h : a < n) (v : Byte) :
    Memory.below n (Memory.write m a v) = true := by
  induction m with
  | nil => by_cases hv : v = Memory.blank <;> simp [Memory.write, Memory.below, hv, h]
  | cons c t ih =>
    obtain ⟨k, x⟩ := c
    simp only [Memory.below, List.all_cons, Bool.and_eq_true, decide_eq_true_eq] at w ih ⊢
    unfold Memory.write
    by_cases h1 : a < k
    · by_cases hv : v = Memory.blank <;> simp [h1, hv, w, h]
    · by_cases h2 : a = k
      · subst h2
        by_cases hv : v = Memory.blank <;> simp [hv, h] <;> simpa using w.2
      · simp only [if_neg h1, if_neg h2, List.all_cons, Bool.and_eq_true, decide_eq_true_eq]
        exact ⟨w.1, ih w.2⟩

/-- The empty array reads blank everywhere. -/
@[simp] theorem read_nil (a : Nat) : Memory.read [] a = Memory.blank := rfl

theorem wfFrom_filter {lo : Nat} {m : Memory} (w : Memory.wfFrom lo m = true) (f : Host.Cell → Bool) :
    Memory.wfFrom lo (m.filter f) = true := by
  induction m generalizing lo with
  | nil => rfl
  | cons c t ih =>
    have w' := w
    simp only [Memory.wfFrom, Bool.and_eq_true, decide_eq_true_eq] at w
    by_cases hf : f c = true
    · simp only [List.filter_cons, hf, if_true, Memory.wfFrom, Bool.and_eq_true, decide_eq_true_eq]
      exact ⟨w.1, ih w.2⟩
    · simp only [List.filter_cons, hf]
      exact wfFrom_mono (by omega) (ih w.2)

theorem read_filter {m : Memory} (f : Nat → Bool) (a : Nat) :
    Memory.read (m.filter fun c => f c.1) a = if f a then Memory.read m a else Memory.blank := by
  induction m with
  | nil => simp [Memory.read]
  | cons c t ih =>
    obtain ⟨k, x⟩ := c
    by_cases hk : k = a
    · subst hk
      by_cases hf : f k = true
      · simp [hf, Memory.read]
      · simpa [List.filter_cons, hf] using ih
    · by_cases hf : f k = true
      · simp only [List.filter_cons, hf, if_true, Memory.read, if_neg hk, ih]
      · simp only [List.filter_cons, hf, Memory.read, if_neg hk]
        simpa using ih

theorem read_append (m m' : Memory) (a : Nat) :
    Memory.read (m ++ m') a = if m.any (fun c => c.1 == a) then Memory.read m a else Memory.read m' a := by
  induction m with
  | nil => simp
  | cons c t ih =>
    obtain ⟨k, x⟩ := c
    by_cases hk : k = a
    · subst hk
      simp [Memory.read]
    · have hb : (k == a) = false := beq_eq_false_iff_ne.mpr hk
      simp only [List.cons_append, Memory.read, if_neg hk, ih, List.any_cons, hb, Bool.false_or]

theorem read_not_listed {m : Memory} {a : Nat} (h : m.any (fun c => c.1 == a) = false) :
    Memory.read m a = Memory.blank := by
  induction m with
  | nil => rfl
  | cons c t ih =>
    obtain ⟨k, x⟩ := c
    simp only [List.any_cons, Bool.or_eq_false_iff, beq_eq_false_iff_ne] at h
    simp only [Memory.read, if_neg h.1]
    exact ih h.2

/-- What an overlay reads: the first `n` bytes from the source, the rest from the destination. -/
theorem read_overlay (src : Memory) (n : Nat) (dst : Memory) (a : Nat) :
    Memory.read (Memory.overlay src n dst) a = if a < n then Memory.read src a else Memory.read dst a := by
  have e1 := read_filter (m := src) (fun k => decide (k < n)) a
  have e2 := read_filter (m := dst) (fun k => decide (n ≤ k)) a
  unfold Memory.overlay
  rw [read_append]
  by_cases h : a < n
  · simp only [h, decide_true, if_true] at e1
    have e2' : Memory.read (dst.filter fun c => decide (n ≤ c.1)) a = Memory.blank := by
      rw [e2]; simp [h]
    rw [if_pos h, e2', ← e1]
    split
    · rfl
    · rename_i hn
      exact (read_not_listed (Bool.eq_false_iff.mpr hn)).symm
  · have hn : (src.filter fun c => decide (c.1 < n)).any (fun c => c.1 == a) = false := by
      simp only [List.any_eq_false, List.mem_filter, decide_eq_true_eq, beq_iff_eq]
      rintro c ⟨_, hc⟩ rfl
      exact h hc
    rw [if_neg (by simp [hn]), if_neg h, e2]
    simp [Nat.le_of_not_lt h]

theorem wfFrom_append {lo n : Nat} {m m' : Memory} (w : Memory.wfFrom lo m = true) (b : Memory.below n m = true)
    (w' : Memory.wfFrom n m' = true) (h : lo ≤ n) : Memory.wfFrom lo (m ++ m') = true := by
  induction m generalizing lo with
  | nil => exact wfFrom_mono h w'
  | cons c t ih =>
    simp only [Memory.wfFrom, Memory.below, List.all_cons, Bool.and_eq_true, decide_eq_true_eq] at w b ⊢
    simp only [List.cons_append, Memory.wfFrom, Bool.and_eq_true, decide_eq_true_eq]
    exact ⟨w.1, ih w.2 b.2 (by omega)⟩

theorem wfFrom_filter_ge {lo n : Nat} {m : Memory} (w : Memory.wfFrom lo m = true) :
    Memory.wfFrom n (m.filter fun c => decide (n ≤ c.1)) = true := by
  induction m generalizing lo with
  | nil => rfl
  | cons c t ih =>
    have w' := w
    simp only [Memory.wfFrom, Bool.and_eq_true, decide_eq_true_eq] at w
    by_cases hc : n ≤ c.1
    · simp only [List.filter_cons, hc, decide_true, if_true, Memory.wfFrom, Bool.and_eq_true, decide_eq_true_eq,
        true_and]
      exact ⟨w.1.2, wfFrom_filter w.2 _⟩
    · simp only [List.filter_cons, hc, decide_false]
      exact ih w.2

/-- An overlay keeps the canonical form. -/
theorem wf_overlay {src dst : Memory} (ws : Memory.wf src = true) (wd : Memory.wf dst = true) (n : Nat) :
    Memory.wf (Memory.overlay src n dst) = true := by
  refine wfFrom_append (n := n) (wfFrom_filter ws _) ?_ (wfFrom_filter_ge wd) (Nat.zero_le n)
  simp only [Memory.below, List.all_eq_true, List.mem_filter, decide_eq_true_eq]
  exact fun c hc => hc.2

theorem below_overlay {src dst : Memory} {n k : Nat} (hn : n ≤ k) (hd : Memory.below k dst = true) :
    Memory.below k (Memory.overlay src n dst) = true := by
  simp only [Memory.below, Memory.overlay, List.all_append, Bool.and_eq_true, List.all_eq_true, List.mem_filter,
    decide_eq_true_eq] at hd ⊢
  exact ⟨fun c hc => by omega, fun c hc => hd c hc.1⟩

/-- Normalizing keeps the canonical form and stays below the size. -/
theorem wf_normalize (size : Nat) (m : List Host.Cell) : Memory.wf (Memory.normalize size m) = true := by
  induction m with
  | nil => rfl
  | cons c t ih =>
    obtain ⟨k, v⟩ := c
    unfold Memory.normalize
    split
    · exact wf_write ih k v
    · exact ih

theorem below_normalize (size : Nat) (m : List Host.Cell) :
    Memory.below size (Memory.normalize size m) = true := by
  induction m with
  | nil => rfl
  | cons c t ih =>
    obtain ⟨k, v⟩ := c
    unfold Memory.normalize
    split
    · exact below_write ih ‹_› v
    · exact ih

/-- A normalized array reads as the cells do, below its size. -/
theorem read_normalize {size a : Nat} (m : List Host.Cell) (h : a < size) :
    Memory.read (Memory.normalize size m) a = Memory.read m a := by
  induction m with
  | nil => rfl
  | cons c t ih =>
    obtain ⟨k, v⟩ := c
    by_cases hk : k = a
    · subst hk
      simp only [Memory.normalize, if_pos h, Memory.read, if_true]
      exact read_write_same (wf_normalize size t) k v
    · have hk' : a ≠ k := fun e => hk e.symm
      simp only [Memory.normalize, Memory.read, if_neg hk]
      split
      · rw [read_write_other _ _ hk', ih]
      · exact ih

/-- What a slice of an array reads. -/
theorem read_slice (m : Memory) (off n a : Nat) :
    Memory.read (Memory.slice m off n) a = if a < n then Memory.read m (off + a) else Memory.blank := by
  unfold Memory.slice
  induction m with
  | nil => simp [Memory.read]
  | cons c t ih =>
    obtain ⟨k, v⟩ := c
    by_cases hin : off ≤ k ∧ k < off + n
    · simp only [List.filterMap_cons, hin, and_self, if_true, Memory.read]
      by_cases hk : k - off = a
      · have : k = off + a := by omega
        have h2 : a < n := by omega
        simp [this, h2]
      · have : k ≠ off + a := by omega
        simp [hk, this, ih]
    · simp only [List.filterMap_cons, if_neg hin, Memory.read]
      rw [ih]
      by_cases h2 : a < n
      · have : k ≠ off + a := fun e => hin (by omega)
        simp [h2, this]
      · simp [h2]

theorem wfFrom_slice {lo lo' off n : Nat} {m : Memory} (w : Memory.wfFrom lo m = true) (h : lo' ≤ lo - off) :
    Memory.wfFrom lo' (Memory.slice m off n) = true := by
  unfold Memory.slice
  induction m generalizing lo lo' with
  | nil => rfl
  | cons c t ih =>
    obtain ⟨k, v⟩ := c
    simp only [Memory.wfFrom, Bool.and_eq_true, decide_eq_true_eq] at w
    by_cases hin : off ≤ k ∧ k < off + n
    · simp only [List.filterMap_cons, hin, and_self, if_true, Memory.wfFrom, Bool.and_eq_true, decide_eq_true_eq]
      exact ⟨⟨by omega, w.1.2⟩, ih w.2 (by omega)⟩
    · simp only [List.filterMap_cons, if_neg hin]
      exact ih w.2 (by omega)

/-- A slice of a canonical array is canonical. -/
theorem wf_slice {m : Memory} (w : Memory.wf m = true) (off n : Nat) : Memory.wf (Memory.slice m off n) = true :=
  wfFrom_slice w (Nat.zero_le _)

theorem wfFrom_ofBytesFrom {lo k : Nat} (h : lo ≤ k) (bs : List Byte) :
    Memory.wfFrom lo (Memory.ofBytesFrom k bs) = true := by
  induction bs generalizing lo k with
  | nil => rfl
  | cons b t ih =>
    unfold Memory.ofBytesFrom
    split
    · exact ih (by omega)
    · simp only [Memory.wfFrom, Bool.and_eq_true, decide_eq_true_eq]
      exact ⟨⟨h, ‹_›⟩, ih (le_refl _)⟩

/-- The array of a list of bytes is canonical. -/
theorem wf_ofBytes (bs : List Byte) : Memory.wf (Memory.ofBytes bs) = true := wfFrom_ofBytesFrom (le_refl 0) bs

theorem read_ofBytesFrom (k : Nat) (bs : List Byte) (i : Nat) :
    Memory.read (Memory.ofBytesFrom k bs) (k + i) = bs.getD i Memory.blank := by
  induction bs generalizing k i with
  | nil => simp [Memory.ofBytesFrom]
  | cons b t ih =>
    cases i with
    | zero =>
      unfold Memory.ofBytesFrom
      split
      · rename_i hb
        subst hb
        simpa using read_of_lt (wfFrom_ofBytesFrom (le_refl (k + 1)) t) (Nat.lt_succ_self k)
      · simp [Memory.read]
    | succ j =>
      have e : k + (j + 1) = (k + 1) + j := by omega
      have hk : k ≠ k + 1 + j := by omega
      unfold Memory.ofBytesFrom
      split
      · rw [e, ih]; simp
      · rw [e, Memory.read, if_neg hk, ih]; simp

/-- The array of a list of bytes reads as the list. -/
theorem read_ofBytes (bs : List Byte) (i : Nat) : Memory.read (Memory.ofBytes bs) i = bs.getD i Memory.blank := by
  simpa [Memory.ofBytes] using read_ofBytesFrom 0 bs i

end Sys2Proof.Machine
end

