-- ==== Sys2Proof/Laws/State.lean ====
section
/-! SUPPORT. One small lemma for each field and each basic update of the state, so that no proof unfolds a record
update. -/

namespace Sys2Proof.Machine

variable (s : State)

section
variable (e : Event)
@[simp] theorem log_ram : (log e s).ram = s.ram := rfl
@[simp] theorem log_rom : (log e s).rom = s.rom := rfl
@[simp] theorem log_romSize : (log e s).romSize = s.romSize := rfl
@[simp] theorem log_ctrl : (log e s).ctrl = s.ctrl := rfl
@[simp] theorem log_parLatch : (log e s).parLatch = s.parLatch := rfl
@[simp] theorem log_rx : (log e s).rx = s.rx := rfl
@[simp] theorem log_tx : (log e s).tx = s.tx := rfl
@[simp] theorem log_key : (log e s).key = s.key := rfl
@[simp] theorem log_vblank : (log e s).vblank = s.vblank := rfl
@[simp] theorem log_mask : (log e s).mask = s.mask := rfl
@[simp] theorem log_psgLatch : (log e s).psgLatch = s.psgLatch := rfl
@[simp] theorem log_fdc : (log e s).fdc = s.fdc := rfl
@[simp] theorem log_drive0 : (log e s).drive0 = s.drive0 := rfl
@[simp] theorem log_drive1 : (log e s).drive1 = s.drive1 := rfl
@[simp] theorem log_kq : (log e s).kq = s.kq := rfl
@[simp] theorem log_kqRd : (log e s).kqRd = s.kqRd := rfl
@[simp] theorem log_kqWr : (log e s).kqWr = s.kqWr := rfl
@[simp] theorem log_cycles : (log e s).cycles = s.cycles := rfl
@[simp] theorem log_nextBoundary : (log e s).nextBoundary = s.nextBoundary := rfl
@[simp] theorem log_slice : (log e s).slice = s.slice := rfl
@[simp] theorem log_kbdIdle : (log e s).kbdIdle = s.kbdIdle := rfl
@[simp] theorem log_stop : (log e s).stop = s.stop := rfl
@[simp] theorem log_faulted : (log e s).faulted = s.faulted := rfl
@[simp] theorem log_params : (log e s).params = s.params := rfl
@[simp] theorem log_input : (log e s).input = s.input := rfl
@[simp] theorem log_answers : (log e s).answers = s.answers := rfl
@[simp] theorem log_trace : (log e s).trace = e :: s.trace := rfl
@[simp] theorem log_runState : (log e s).runState = s.runState := rfl
end

section
variable (b : Byte)
@[simp] theorem reply_ram : (reply b s).ram = s.ram := rfl
@[simp] theorem reply_rom : (reply b s).rom = s.rom := rfl
@[simp] theorem reply_romSize : (reply b s).romSize = s.romSize := rfl
@[simp] theorem reply_ctrl : (reply b s).ctrl = s.ctrl := rfl
@[simp] theorem reply_parLatch : (reply b s).parLatch = s.parLatch := rfl
@[simp] theorem reply_rx : (reply b s).rx = s.rx := rfl
@[simp] theorem reply_tx : (reply b s).tx = s.tx := rfl
@[simp] theorem reply_key : (reply b s).key = s.key := rfl
@[simp] theorem reply_vblank : (reply b s).vblank = s.vblank := rfl
@[simp] theorem reply_mask : (reply b s).mask = s.mask := rfl
@[simp] theorem reply_psgLatch : (reply b s).psgLatch = s.psgLatch := rfl
@[simp] theorem reply_fdc : (reply b s).fdc = s.fdc := rfl
@[simp] theorem reply_drive0 : (reply b s).drive0 = s.drive0 := rfl
@[simp] theorem reply_drive1 : (reply b s).drive1 = s.drive1 := rfl
@[simp] theorem reply_kq : (reply b s).kq = s.kq := rfl
@[simp] theorem reply_kqRd : (reply b s).kqRd = s.kqRd := rfl
@[simp] theorem reply_kqWr : (reply b s).kqWr = s.kqWr := rfl
@[simp] theorem reply_cycles : (reply b s).cycles = s.cycles := rfl
@[simp] theorem reply_nextBoundary : (reply b s).nextBoundary = s.nextBoundary := rfl
@[simp] theorem reply_slice : (reply b s).slice = s.slice := rfl
@[simp] theorem reply_kbdIdle : (reply b s).kbdIdle = s.kbdIdle := rfl
@[simp] theorem reply_stop : (reply b s).stop = s.stop := rfl
@[simp] theorem reply_faulted : (reply b s).faulted = s.faulted := rfl
@[simp] theorem reply_params : (reply b s).params = s.params := rfl
@[simp] theorem reply_input : (reply b s).input = s.input := rfl
@[simp] theorem reply_answers : (reply b s).answers = s.answers := rfl
@[simp] theorem reply_trace : (reply b s).trace = .reply b :: s.trace := rfl
@[simp] theorem reply_runState : (reply b s).runState = s.runState := rfl
end

section
variable (d : Diag)
@[simp] theorem diagnose_ram : (diagnose d s).ram = s.ram := rfl
@[simp] theorem diagnose_rom : (diagnose d s).rom = s.rom := rfl
@[simp] theorem diagnose_romSize : (diagnose d s).romSize = s.romSize := rfl
@[simp] theorem diagnose_ctrl : (diagnose d s).ctrl = s.ctrl := rfl
@[simp] theorem diagnose_parLatch : (diagnose d s).parLatch = s.parLatch := rfl
@[simp] theorem diagnose_rx : (diagnose d s).rx = s.rx := rfl
@[simp] theorem diagnose_tx : (diagnose d s).tx = s.tx := rfl
@[simp] theorem diagnose_key : (diagnose d s).key = s.key := rfl
@[simp] theorem diagnose_vblank : (diagnose d s).vblank = s.vblank := rfl
@[simp] theorem diagnose_mask : (diagnose d s).mask = s.mask := rfl
@[simp] theorem diagnose_psgLatch : (diagnose d s).psgLatch = s.psgLatch := rfl
@[simp] theorem diagnose_fdc : (diagnose d s).fdc = s.fdc := rfl
@[simp] theorem diagnose_drive0 : (diagnose d s).drive0 = s.drive0 := rfl
@[simp] theorem diagnose_drive1 : (diagnose d s).drive1 = s.drive1 := rfl
@[simp] theorem diagnose_kq : (diagnose d s).kq = s.kq := rfl
@[simp] theorem diagnose_kqRd : (diagnose d s).kqRd = s.kqRd := rfl
@[simp] theorem diagnose_kqWr : (diagnose d s).kqWr = s.kqWr := rfl
@[simp] theorem diagnose_cycles : (diagnose d s).cycles = s.cycles := rfl
@[simp] theorem diagnose_nextBoundary : (diagnose d s).nextBoundary = s.nextBoundary := rfl
@[simp] theorem diagnose_slice : (diagnose d s).slice = s.slice := rfl
@[simp] theorem diagnose_kbdIdle : (diagnose d s).kbdIdle = s.kbdIdle := rfl
@[simp] theorem diagnose_stop : (diagnose d s).stop = s.stop := rfl
@[simp] theorem diagnose_faulted : (diagnose d s).faulted = s.faulted := rfl
@[simp] theorem diagnose_params : (diagnose d s).params = s.params := rfl
@[simp] theorem diagnose_input : (diagnose d s).input = s.input := rfl
@[simp] theorem diagnose_answers : (diagnose d s).answers = s.answers := rfl
@[simp] theorem diagnose_trace : (diagnose d s).trace = .diag d :: s.trace := rfl
@[simp] theorem diagnose_runState : (diagnose d s).runState = s.runState := rfl
end

@[simp] theorem recompute_ram : (recompute s).ram = s.ram := rfl
@[simp] theorem recompute_rom : (recompute s).rom = s.rom := rfl
@[simp] theorem recompute_romSize : (recompute s).romSize = s.romSize := rfl
@[simp] theorem recompute_ctrl : (recompute s).ctrl = s.ctrl := rfl
@[simp] theorem recompute_parLatch : (recompute s).parLatch = s.parLatch := rfl
@[simp] theorem recompute_rx : (recompute s).rx = s.rx := rfl
@[simp] theorem recompute_tx : (recompute s).tx = s.tx := rfl
@[simp] theorem recompute_key : (recompute s).key = s.key := rfl
@[simp] theorem recompute_vblank : (recompute s).vblank = s.vblank := rfl
@[simp] theorem recompute_mask : (recompute s).mask = s.mask := rfl
@[simp] theorem recompute_psgLatch : (recompute s).psgLatch = s.psgLatch := rfl
@[simp] theorem recompute_fdc : (recompute s).fdc = s.fdc := rfl
@[simp] theorem recompute_drive0 : (recompute s).drive0 = s.drive0 := rfl
@[simp] theorem recompute_drive1 : (recompute s).drive1 = s.drive1 := rfl
@[simp] theorem recompute_kq : (recompute s).kq = s.kq := rfl
@[simp] theorem recompute_kqRd : (recompute s).kqRd = s.kqRd := rfl
@[simp] theorem recompute_kqWr : (recompute s).kqWr = s.kqWr := rfl
@[simp] theorem recompute_cycles : (recompute s).cycles = s.cycles := rfl
@[simp] theorem recompute_nextBoundary : (recompute s).nextBoundary = s.nextBoundary := rfl
@[simp] theorem recompute_slice : (recompute s).slice = s.slice := rfl
@[simp] theorem recompute_kbdIdle : (recompute s).kbdIdle = s.kbdIdle := rfl
@[simp] theorem recompute_stop : (recompute s).stop = s.stop := rfl
@[simp] theorem recompute_faulted : (recompute s).faulted = s.faulted := rfl
@[simp] theorem recompute_params : (recompute s).params = s.params := rfl
@[simp] theorem recompute_input : (recompute s).input = s.input := rfl
@[simp] theorem recompute_answers : (recompute s).answers = s.answers := rfl
@[simp] theorem recompute_trace : (recompute s).trace = .psgPortB (portb s) :: .irqLine (active s) (vector s) :: s.trace := rfl
@[simp] theorem recompute_runState : (recompute s).runState = s.runState := rfl

section
variable (a : Addr) (v : Byte)
@[simp] theorem memWrite_ram : (memWrite a v s).ram = Memory.write s.ram a.toNat v := rfl
@[simp] theorem memWrite_rom : (memWrite a v s).rom = s.rom := rfl
@[simp] theorem memWrite_romSize : (memWrite a v s).romSize = s.romSize := rfl
@[simp] theorem memWrite_ctrl : (memWrite a v s).ctrl = s.ctrl := rfl
@[simp] theorem memWrite_parLatch : (memWrite a v s).parLatch = s.parLatch := rfl
@[simp] theorem memWrite_rx : (memWrite a v s).rx = s.rx := rfl
@[simp] theorem memWrite_tx : (memWrite a v s).tx = s.tx := rfl
@[simp] theorem memWrite_key : (memWrite a v s).key = s.key := rfl
@[simp] theorem memWrite_vblank : (memWrite a v s).vblank = s.vblank := rfl
@[simp] theorem memWrite_mask : (memWrite a v s).mask = s.mask := rfl
@[simp] theorem memWrite_psgLatch : (memWrite a v s).psgLatch = s.psgLatch := rfl
@[simp] theorem memWrite_fdc : (memWrite a v s).fdc = s.fdc := rfl
@[simp] theorem memWrite_drive0 : (memWrite a v s).drive0 = s.drive0 := rfl
@[simp] theorem memWrite_drive1 : (memWrite a v s).drive1 = s.drive1 := rfl
@[simp] theorem memWrite_kq : (memWrite a v s).kq = s.kq := rfl
@[simp] theorem memWrite_kqRd : (memWrite a v s).kqRd = s.kqRd := rfl
@[simp] theorem memWrite_kqWr : (memWrite a v s).kqWr = s.kqWr := rfl
@[simp] theorem memWrite_cycles : (memWrite a v s).cycles = s.cycles := rfl
@[simp] theorem memWrite_nextBoundary : (memWrite a v s).nextBoundary = s.nextBoundary := rfl
@[simp] theorem memWrite_slice : (memWrite a v s).slice = s.slice := rfl
@[simp] theorem memWrite_kbdIdle : (memWrite a v s).kbdIdle = s.kbdIdle := rfl
@[simp] theorem memWrite_stop : (memWrite a v s).stop = s.stop := rfl
@[simp] theorem memWrite_faulted : (memWrite a v s).faulted = s.faulted := rfl
@[simp] theorem memWrite_params : (memWrite a v s).params = s.params := rfl
@[simp] theorem memWrite_input : (memWrite a v s).input = s.input := rfl
@[simp] theorem memWrite_answers : (memWrite a v s).answers = s.answers := rfl
@[simp] theorem memWrite_trace : (memWrite a v s).trace = s.trace := rfl
@[simp] theorem memWrite_runState : (memWrite a v s).runState = s.runState := rfl
end

section
variable (v : Byte)
@[simp] theorem maskWrite_ram : (maskWrite v s).ram = s.ram := rfl
@[simp] theorem maskWrite_rom : (maskWrite v s).rom = s.rom := rfl
@[simp] theorem maskWrite_romSize : (maskWrite v s).romSize = s.romSize := rfl
@[simp] theorem maskWrite_ctrl : (maskWrite v s).ctrl = s.ctrl := rfl
@[simp] theorem maskWrite_parLatch : (maskWrite v s).parLatch = s.parLatch := rfl
@[simp] theorem maskWrite_rx : (maskWrite v s).rx = s.rx := rfl
@[simp] theorem maskWrite_tx : (maskWrite v s).tx = s.tx := rfl
@[simp] theorem maskWrite_key : (maskWrite v s).key = s.key := rfl
@[simp] theorem maskWrite_vblank : (maskWrite v s).vblank = s.vblank := rfl
@[simp] theorem maskWrite_mask : (maskWrite v s).mask = v := rfl
@[simp] theorem maskWrite_psgLatch : (maskWrite v s).psgLatch = s.psgLatch := rfl
@[simp] theorem maskWrite_fdc : (maskWrite v s).fdc = s.fdc := rfl
@[simp] theorem maskWrite_drive0 : (maskWrite v s).drive0 = s.drive0 := rfl
@[simp] theorem maskWrite_drive1 : (maskWrite v s).drive1 = s.drive1 := rfl
@[simp] theorem maskWrite_kq : (maskWrite v s).kq = s.kq := rfl
@[simp] theorem maskWrite_kqRd : (maskWrite v s).kqRd = s.kqRd := rfl
@[simp] theorem maskWrite_kqWr : (maskWrite v s).kqWr = s.kqWr := rfl
@[simp] theorem maskWrite_cycles : (maskWrite v s).cycles = s.cycles := rfl
@[simp] theorem maskWrite_nextBoundary : (maskWrite v s).nextBoundary = s.nextBoundary := rfl
@[simp] theorem maskWrite_slice : (maskWrite v s).slice = s.slice := rfl
@[simp] theorem maskWrite_kbdIdle : (maskWrite v s).kbdIdle = s.kbdIdle := rfl
@[simp] theorem maskWrite_stop : (maskWrite v s).stop = s.stop := rfl
@[simp] theorem maskWrite_faulted : (maskWrite v s).faulted = s.faulted := rfl
@[simp] theorem maskWrite_params : (maskWrite v s).params = s.params := rfl
@[simp] theorem maskWrite_input : (maskWrite v s).input = s.input := rfl
@[simp] theorem maskWrite_answers : (maskWrite v s).answers = s.answers := rfl
@[simp] theorem maskWrite_runState : (maskWrite v s).runState = s.runState := rfl
end

section
variable (f : Flag) (v : Bool)
@[simp] theorem setFlag_ram : (setFlag f v s).ram = s.ram := by cases f <;> rfl
@[simp] theorem setFlag_rom : (setFlag f v s).rom = s.rom := by cases f <;> rfl
@[simp] theorem setFlag_romSize : (setFlag f v s).romSize = s.romSize := by cases f <;> rfl
@[simp] theorem setFlag_ctrl : (setFlag f v s).ctrl = s.ctrl := by cases f <;> rfl
@[simp] theorem setFlag_parLatch : (setFlag f v s).parLatch = s.parLatch := by cases f <;> rfl
@[simp] theorem setFlag_mask : (setFlag f v s).mask = s.mask := by cases f <;> rfl
@[simp] theorem setFlag_psgLatch : (setFlag f v s).psgLatch = s.psgLatch := by cases f <;> rfl
@[simp] theorem setFlag_fdc : (setFlag f v s).fdc = s.fdc := by cases f <;> rfl
@[simp] theorem setFlag_drive0 : (setFlag f v s).drive0 = s.drive0 := by cases f <;> rfl
@[simp] theorem setFlag_drive1 : (setFlag f v s).drive1 = s.drive1 := by cases f <;> rfl
@[simp] theorem setFlag_kq : (setFlag f v s).kq = s.kq := by cases f <;> rfl
@[simp] theorem setFlag_kqRd : (setFlag f v s).kqRd = s.kqRd := by cases f <;> rfl
@[simp] theorem setFlag_kqWr : (setFlag f v s).kqWr = s.kqWr := by cases f <;> rfl
@[simp] theorem setFlag_cycles : (setFlag f v s).cycles = s.cycles := by cases f <;> rfl
@[simp] theorem setFlag_nextBoundary : (setFlag f v s).nextBoundary = s.nextBoundary := by cases f <;> rfl
@[simp] theorem setFlag_slice : (setFlag f v s).slice = s.slice := by cases f <;> rfl
@[simp] theorem setFlag_kbdIdle : (setFlag f v s).kbdIdle = s.kbdIdle := by cases f <;> rfl
@[simp] theorem setFlag_stop : (setFlag f v s).stop = s.stop := by cases f <;> rfl
@[simp] theorem setFlag_faulted : (setFlag f v s).faulted = s.faulted := by cases f <;> rfl
@[simp] theorem setFlag_params : (setFlag f v s).params = s.params := by cases f <;> rfl
@[simp] theorem setFlag_input : (setFlag f v s).input = s.input := by cases f <;> rfl
@[simp] theorem setFlag_answers : (setFlag f v s).answers = s.answers := by cases f <;> rfl
@[simp] theorem setFlag_trace : (setFlag f v s).trace = s.trace := by cases f <;> rfl
@[simp] theorem setFlag_runState : (setFlag f v s).runState = s.runState := by cases f <;> rfl
end

section
variable (f : Flag)
@[simp] theorem flagSet_ram : (flagSet f s).ram = s.ram := by cases f <;> rfl
@[simp] theorem flagSet_rom : (flagSet f s).rom = s.rom := by cases f <;> rfl
@[simp] theorem flagSet_romSize : (flagSet f s).romSize = s.romSize := by cases f <;> rfl
@[simp] theorem flagSet_ctrl : (flagSet f s).ctrl = s.ctrl := by cases f <;> rfl
@[simp] theorem flagSet_parLatch : (flagSet f s).parLatch = s.parLatch := by cases f <;> rfl
@[simp] theorem flagSet_mask : (flagSet f s).mask = s.mask := by cases f <;> rfl
@[simp] theorem flagSet_psgLatch : (flagSet f s).psgLatch = s.psgLatch := by cases f <;> rfl
@[simp] theorem flagSet_fdc : (flagSet f s).fdc = s.fdc := by cases f <;> rfl
@[simp] theorem flagSet_drive0 : (flagSet f s).drive0 = s.drive0 := by cases f <;> rfl
@[simp] theorem flagSet_drive1 : (flagSet f s).drive1 = s.drive1 := by cases f <;> rfl
@[simp] theorem flagSet_kq : (flagSet f s).kq = s.kq := by cases f <;> rfl
@[simp] theorem flagSet_kqRd : (flagSet f s).kqRd = s.kqRd := by cases f <;> rfl
@[simp] theorem flagSet_kqWr : (flagSet f s).kqWr = s.kqWr := by cases f <;> rfl
@[simp] theorem flagSet_cycles : (flagSet f s).cycles = s.cycles := by cases f <;> rfl
@[simp] theorem flagSet_nextBoundary : (flagSet f s).nextBoundary = s.nextBoundary := by cases f <;> rfl
@[simp] theorem flagSet_slice : (flagSet f s).slice = s.slice := by cases f <;> rfl
@[simp] theorem flagSet_kbdIdle : (flagSet f s).kbdIdle = s.kbdIdle := by cases f <;> rfl
@[simp] theorem flagSet_stop : (flagSet f s).stop = s.stop := by cases f <;> rfl
@[simp] theorem flagSet_faulted : (flagSet f s).faulted = s.faulted := by cases f <;> rfl
@[simp] theorem flagSet_params : (flagSet f s).params = s.params := by cases f <;> rfl
@[simp] theorem flagSet_input : (flagSet f s).input = s.input := by cases f <;> rfl
@[simp] theorem flagSet_answers : (flagSet f s).answers = s.answers := by cases f <;> rfl
@[simp] theorem flagSet_runState : (flagSet f s).runState = s.runState := by cases f <;> rfl
end

section
variable (f : Flag)
@[simp] theorem flagClear_ram : (flagClear f s).ram = s.ram := by cases f <;> rfl
@[simp] theorem flagClear_rom : (flagClear f s).rom = s.rom := by cases f <;> rfl
@[simp] theorem flagClear_romSize : (flagClear f s).romSize = s.romSize := by cases f <;> rfl
@[simp] theorem flagClear_ctrl : (flagClear f s).ctrl = s.ctrl := by cases f <;> rfl
@[simp] theorem flagClear_parLatch : (flagClear f s).parLatch = s.parLatch := by cases f <;> rfl
@[simp] theorem flagClear_mask : (flagClear f s).mask = s.mask := by cases f <;> rfl
@[simp] theorem flagClear_psgLatch : (flagClear f s).psgLatch = s.psgLatch := by cases f <;> rfl
@[simp] theorem flagClear_fdc : (flagClear f s).fdc = s.fdc := by cases f <;> rfl
@[simp] theorem flagClear_drive0 : (flagClear f s).drive0 = s.drive0 := by cases f <;> rfl
@[simp] theorem flagClear_drive1 : (flagClear f s).drive1 = s.drive1 := by cases f <;> rfl
@[simp] theorem flagClear_kq : (flagClear f s).kq = s.kq := by cases f <;> rfl
@[simp] theorem flagClear_kqRd : (flagClear f s).kqRd = s.kqRd := by cases f <;> rfl
@[simp] theorem flagClear_kqWr : (flagClear f s).kqWr = s.kqWr := by cases f <;> rfl
@[simp] theorem flagClear_cycles : (flagClear f s).cycles = s.cycles := by cases f <;> rfl
@[simp] theorem flagClear_nextBoundary : (flagClear f s).nextBoundary = s.nextBoundary := by cases f <;> rfl
@[simp] theorem flagClear_slice : (flagClear f s).slice = s.slice := by cases f <;> rfl
@[simp] theorem flagClear_kbdIdle : (flagClear f s).kbdIdle = s.kbdIdle := by cases f <;> rfl
@[simp] theorem flagClear_stop : (flagClear f s).stop = s.stop := by cases f <;> rfl
@[simp] theorem flagClear_faulted : (flagClear f s).faulted = s.faulted := by cases f <;> rfl
@[simp] theorem flagClear_params : (flagClear f s).params = s.params := by cases f <;> rfl
@[simp] theorem flagClear_input : (flagClear f s).input = s.input := by cases f <;> rfl
@[simp] theorem flagClear_answers : (flagClear f s).answers = s.answers := by cases f <;> rfl
@[simp] theorem flagClear_runState : (flagClear f s).runState = s.runState := by cases f <;> rfl
end

section
variable (v : Bool)
@[simp] theorem setTx_ram : (setTx v s).ram = s.ram := by cases v <;> rfl
@[simp] theorem setTx_rom : (setTx v s).rom = s.rom := by cases v <;> rfl
@[simp] theorem setTx_romSize : (setTx v s).romSize = s.romSize := by cases v <;> rfl
@[simp] theorem setTx_ctrl : (setTx v s).ctrl = s.ctrl := by cases v <;> rfl
@[simp] theorem setTx_parLatch : (setTx v s).parLatch = s.parLatch := by cases v <;> rfl
@[simp] theorem setTx_rx : (setTx v s).rx = s.rx := by cases v <;> rfl
@[simp] theorem setTx_tx : (setTx v s).tx = v := by cases v <;> rfl
@[simp] theorem setTx_key : (setTx v s).key = s.key := by cases v <;> rfl
@[simp] theorem setTx_vblank : (setTx v s).vblank = s.vblank := by cases v <;> rfl
@[simp] theorem setTx_mask : (setTx v s).mask = s.mask := by cases v <;> rfl
@[simp] theorem setTx_psgLatch : (setTx v s).psgLatch = s.psgLatch := by cases v <;> rfl
@[simp] theorem setTx_fdc : (setTx v s).fdc = s.fdc := by cases v <;> rfl
@[simp] theorem setTx_drive0 : (setTx v s).drive0 = s.drive0 := by cases v <;> rfl
@[simp] theorem setTx_drive1 : (setTx v s).drive1 = s.drive1 := by cases v <;> rfl
@[simp] theorem setTx_kq : (setTx v s).kq = s.kq := by cases v <;> rfl
@[simp] theorem setTx_kqRd : (setTx v s).kqRd = s.kqRd := by cases v <;> rfl
@[simp] theorem setTx_kqWr : (setTx v s).kqWr = s.kqWr := by cases v <;> rfl
@[simp] theorem setTx_cycles : (setTx v s).cycles = s.cycles := by cases v <;> rfl
@[simp] theorem setTx_nextBoundary : (setTx v s).nextBoundary = s.nextBoundary := by cases v <;> rfl
@[simp] theorem setTx_slice : (setTx v s).slice = s.slice := by cases v <;> rfl
@[simp] theorem setTx_kbdIdle : (setTx v s).kbdIdle = s.kbdIdle := by cases v <;> rfl
@[simp] theorem setTx_stop : (setTx v s).stop = s.stop := by cases v <;> rfl
@[simp] theorem setTx_faulted : (setTx v s).faulted = s.faulted := by cases v <;> rfl
@[simp] theorem setTx_params : (setTx v s).params = s.params := by cases v <;> rfl
@[simp] theorem setTx_input : (setTx v s).input = s.input := by cases v <;> rfl
@[simp] theorem setTx_answers : (setTx v s).answers = s.answers := by cases v <;> rfl
@[simp] theorem setTx_runState : (setTx v s).runState = s.runState := by cases v <;> rfl
end

@[simp] theorem dropByte_answers : (dropByte s).answers = withoutByte s.answers := rfl
@[simp] theorem dropByte_ram : (dropByte s).ram = s.ram := rfl
@[simp] theorem dropByte_rom : (dropByte s).rom = s.rom := rfl
@[simp] theorem dropByte_romSize : (dropByte s).romSize = s.romSize := rfl
@[simp] theorem dropByte_ctrl : (dropByte s).ctrl = s.ctrl := rfl
@[simp] theorem dropByte_parLatch : (dropByte s).parLatch = s.parLatch := rfl
@[simp] theorem dropByte_rx : (dropByte s).rx = s.rx := rfl
@[simp] theorem dropByte_tx : (dropByte s).tx = s.tx := rfl
@[simp] theorem dropByte_key : (dropByte s).key = s.key := rfl
@[simp] theorem dropByte_vblank : (dropByte s).vblank = s.vblank := rfl
@[simp] theorem dropByte_mask : (dropByte s).mask = s.mask := rfl
@[simp] theorem dropByte_psgLatch : (dropByte s).psgLatch = s.psgLatch := rfl
@[simp] theorem dropByte_fdc : (dropByte s).fdc = s.fdc := rfl
@[simp] theorem dropByte_drive0 : (dropByte s).drive0 = s.drive0 := rfl
@[simp] theorem dropByte_drive1 : (dropByte s).drive1 = s.drive1 := rfl
@[simp] theorem dropByte_kq : (dropByte s).kq = s.kq := rfl
@[simp] theorem dropByte_kqRd : (dropByte s).kqRd = s.kqRd := rfl
@[simp] theorem dropByte_kqWr : (dropByte s).kqWr = s.kqWr := rfl
@[simp] theorem dropByte_cycles : (dropByte s).cycles = s.cycles := rfl
@[simp] theorem dropByte_nextBoundary : (dropByte s).nextBoundary = s.nextBoundary := rfl
@[simp] theorem dropByte_slice : (dropByte s).slice = s.slice := rfl
@[simp] theorem dropByte_kbdIdle : (dropByte s).kbdIdle = s.kbdIdle := rfl
@[simp] theorem dropByte_stop : (dropByte s).stop = s.stop := rfl
@[simp] theorem dropByte_faulted : (dropByte s).faulted = s.faulted := rfl
@[simp] theorem dropByte_params : (dropByte s).params = s.params := rfl
@[simp] theorem dropByte_input : (dropByte s).input = s.input := rfl
@[simp] theorem dropByte_trace : (dropByte s).trace = s.trace := rfl
@[simp] theorem dropByte_runState : (dropByte s).runState = s.runState := rfl

@[simp] theorem dropBool_answers : (dropBool s).answers = withoutBool s.answers := rfl
@[simp] theorem dropBool_ram : (dropBool s).ram = s.ram := rfl
@[simp] theorem dropBool_rom : (dropBool s).rom = s.rom := rfl
@[simp] theorem dropBool_romSize : (dropBool s).romSize = s.romSize := rfl
@[simp] theorem dropBool_ctrl : (dropBool s).ctrl = s.ctrl := rfl
@[simp] theorem dropBool_parLatch : (dropBool s).parLatch = s.parLatch := rfl
@[simp] theorem dropBool_rx : (dropBool s).rx = s.rx := rfl
@[simp] theorem dropBool_tx : (dropBool s).tx = s.tx := rfl
@[simp] theorem dropBool_key : (dropBool s).key = s.key := rfl
@[simp] theorem dropBool_vblank : (dropBool s).vblank = s.vblank := rfl
@[simp] theorem dropBool_mask : (dropBool s).mask = s.mask := rfl
@[simp] theorem dropBool_psgLatch : (dropBool s).psgLatch = s.psgLatch := rfl
@[simp] theorem dropBool_fdc : (dropBool s).fdc = s.fdc := rfl
@[simp] theorem dropBool_drive0 : (dropBool s).drive0 = s.drive0 := rfl
@[simp] theorem dropBool_drive1 : (dropBool s).drive1 = s.drive1 := rfl
@[simp] theorem dropBool_kq : (dropBool s).kq = s.kq := rfl
@[simp] theorem dropBool_kqRd : (dropBool s).kqRd = s.kqRd := rfl
@[simp] theorem dropBool_kqWr : (dropBool s).kqWr = s.kqWr := rfl
@[simp] theorem dropBool_cycles : (dropBool s).cycles = s.cycles := rfl
@[simp] theorem dropBool_nextBoundary : (dropBool s).nextBoundary = s.nextBoundary := rfl
@[simp] theorem dropBool_slice : (dropBool s).slice = s.slice := rfl
@[simp] theorem dropBool_kbdIdle : (dropBool s).kbdIdle = s.kbdIdle := rfl
@[simp] theorem dropBool_stop : (dropBool s).stop = s.stop := rfl
@[simp] theorem dropBool_faulted : (dropBool s).faulted = s.faulted := rfl
@[simp] theorem dropBool_params : (dropBool s).params = s.params := rfl
@[simp] theorem dropBool_input : (dropBool s).input = s.input := rfl
@[simp] theorem dropBool_trace : (dropBool s).trace = s.trace := rfl
@[simp] theorem dropBool_runState : (dropBool s).runState = s.runState := rfl

@[simp] theorem dropCpuStep_answers : (dropCpuStep s).answers = withoutCpuStep s.answers := rfl
@[simp] theorem dropCpuStep_ram : (dropCpuStep s).ram = s.ram := rfl
@[simp] theorem dropCpuStep_rom : (dropCpuStep s).rom = s.rom := rfl
@[simp] theorem dropCpuStep_romSize : (dropCpuStep s).romSize = s.romSize := rfl
@[simp] theorem dropCpuStep_ctrl : (dropCpuStep s).ctrl = s.ctrl := rfl
@[simp] theorem dropCpuStep_parLatch : (dropCpuStep s).parLatch = s.parLatch := rfl
@[simp] theorem dropCpuStep_rx : (dropCpuStep s).rx = s.rx := rfl
@[simp] theorem dropCpuStep_tx : (dropCpuStep s).tx = s.tx := rfl
@[simp] theorem dropCpuStep_key : (dropCpuStep s).key = s.key := rfl
@[simp] theorem dropCpuStep_vblank : (dropCpuStep s).vblank = s.vblank := rfl
@[simp] theorem dropCpuStep_mask : (dropCpuStep s).mask = s.mask := rfl
@[simp] theorem dropCpuStep_psgLatch : (dropCpuStep s).psgLatch = s.psgLatch := rfl
@[simp] theorem dropCpuStep_fdc : (dropCpuStep s).fdc = s.fdc := rfl
@[simp] theorem dropCpuStep_drive0 : (dropCpuStep s).drive0 = s.drive0 := rfl
@[simp] theorem dropCpuStep_drive1 : (dropCpuStep s).drive1 = s.drive1 := rfl
@[simp] theorem dropCpuStep_kq : (dropCpuStep s).kq = s.kq := rfl
@[simp] theorem dropCpuStep_kqRd : (dropCpuStep s).kqRd = s.kqRd := rfl
@[simp] theorem dropCpuStep_kqWr : (dropCpuStep s).kqWr = s.kqWr := rfl
@[simp] theorem dropCpuStep_cycles : (dropCpuStep s).cycles = s.cycles := rfl
@[simp] theorem dropCpuStep_nextBoundary : (dropCpuStep s).nextBoundary = s.nextBoundary := rfl
@[simp] theorem dropCpuStep_slice : (dropCpuStep s).slice = s.slice := rfl
@[simp] theorem dropCpuStep_kbdIdle : (dropCpuStep s).kbdIdle = s.kbdIdle := rfl
@[simp] theorem dropCpuStep_stop : (dropCpuStep s).stop = s.stop := rfl
@[simp] theorem dropCpuStep_faulted : (dropCpuStep s).faulted = s.faulted := rfl
@[simp] theorem dropCpuStep_params : (dropCpuStep s).params = s.params := rfl
@[simp] theorem dropCpuStep_input : (dropCpuStep s).input = s.input := rfl
@[simp] theorem dropCpuStep_trace : (dropCpuStep s).trace = s.trace := rfl
@[simp] theorem dropCpuStep_runState : (dropCpuStep s).runState = s.runState := rfl

section
variable (b : Byte)
@[simp] theorem kqPush_ram : (kqPush b s).ram = s.ram := rfl
@[simp] theorem kqPush_rom : (kqPush b s).rom = s.rom := rfl
@[simp] theorem kqPush_romSize : (kqPush b s).romSize = s.romSize := rfl
@[simp] theorem kqPush_ctrl : (kqPush b s).ctrl = s.ctrl := rfl
@[simp] theorem kqPush_parLatch : (kqPush b s).parLatch = s.parLatch := rfl
@[simp] theorem kqPush_rx : (kqPush b s).rx = s.rx := rfl
@[simp] theorem kqPush_tx : (kqPush b s).tx = s.tx := rfl
@[simp] theorem kqPush_key : (kqPush b s).key = s.key := rfl
@[simp] theorem kqPush_vblank : (kqPush b s).vblank = s.vblank := rfl
@[simp] theorem kqPush_mask : (kqPush b s).mask = s.mask := rfl
@[simp] theorem kqPush_psgLatch : (kqPush b s).psgLatch = s.psgLatch := rfl
@[simp] theorem kqPush_fdc : (kqPush b s).fdc = s.fdc := rfl
@[simp] theorem kqPush_drive0 : (kqPush b s).drive0 = s.drive0 := rfl
@[simp] theorem kqPush_drive1 : (kqPush b s).drive1 = s.drive1 := rfl
@[simp] theorem kqPush_kq : (kqPush b s).kq = Memory.write s.kq s.kqWr.toNat b := rfl
@[simp] theorem kqPush_kqRd : (kqPush b s).kqRd = s.kqRd := rfl
@[simp] theorem kqPush_kqWr : (kqPush b s).kqWr = s.kqWr + 1 := rfl
@[simp] theorem kqPush_cycles : (kqPush b s).cycles = s.cycles := rfl
@[simp] theorem kqPush_nextBoundary : (kqPush b s).nextBoundary = s.nextBoundary := rfl
@[simp] theorem kqPush_slice : (kqPush b s).slice = s.slice := rfl
@[simp] theorem kqPush_kbdIdle : (kqPush b s).kbdIdle = s.kbdIdle := rfl
@[simp] theorem kqPush_stop : (kqPush b s).stop = s.stop := rfl
@[simp] theorem kqPush_faulted : (kqPush b s).faulted = s.faulted := rfl
@[simp] theorem kqPush_params : (kqPush b s).params = s.params := rfl
@[simp] theorem kqPush_input : (kqPush b s).input = s.input := rfl
@[simp] theorem kqPush_answers : (kqPush b s).answers = s.answers := rfl
@[simp] theorem kqPush_trace : (kqPush b s).trace = s.trace := rfl
@[simp] theorem kqPush_runState : (kqPush b s).runState = s.runState := rfl
end

@[simp] theorem kqPop_ram : (kqPop s).ram = s.ram := rfl
@[simp] theorem kqPop_rom : (kqPop s).rom = s.rom := rfl
@[simp] theorem kqPop_romSize : (kqPop s).romSize = s.romSize := rfl
@[simp] theorem kqPop_ctrl : (kqPop s).ctrl = s.ctrl := rfl
@[simp] theorem kqPop_parLatch : (kqPop s).parLatch = s.parLatch := rfl
@[simp] theorem kqPop_rx : (kqPop s).rx = s.rx := rfl
@[simp] theorem kqPop_tx : (kqPop s).tx = s.tx := rfl
@[simp] theorem kqPop_key : (kqPop s).key = s.key := rfl
@[simp] theorem kqPop_vblank : (kqPop s).vblank = s.vblank := rfl
@[simp] theorem kqPop_mask : (kqPop s).mask = s.mask := rfl
@[simp] theorem kqPop_psgLatch : (kqPop s).psgLatch = s.psgLatch := rfl
@[simp] theorem kqPop_fdc : (kqPop s).fdc = s.fdc := rfl
@[simp] theorem kqPop_drive0 : (kqPop s).drive0 = s.drive0 := rfl
@[simp] theorem kqPop_drive1 : (kqPop s).drive1 = s.drive1 := rfl
@[simp] theorem kqPop_kq : (kqPop s).kq = s.kq := rfl
@[simp] theorem kqPop_kqRd : (kqPop s).kqRd = s.kqRd + 1 := rfl
@[simp] theorem kqPop_kqWr : (kqPop s).kqWr = s.kqWr := rfl
@[simp] theorem kqPop_cycles : (kqPop s).cycles = s.cycles := rfl
@[simp] theorem kqPop_nextBoundary : (kqPop s).nextBoundary = s.nextBoundary := rfl
@[simp] theorem kqPop_slice : (kqPop s).slice = s.slice := rfl
@[simp] theorem kqPop_kbdIdle : (kqPop s).kbdIdle = s.kbdIdle := rfl
@[simp] theorem kqPop_stop : (kqPop s).stop = s.stop := rfl
@[simp] theorem kqPop_faulted : (kqPop s).faulted = s.faulted := rfl
@[simp] theorem kqPop_params : (kqPop s).params = s.params := rfl
@[simp] theorem kqPop_input : (kqPop s).input = s.input := rfl
@[simp] theorem kqPop_answers : (kqPop s).answers = s.answers := rfl
@[simp] theorem kqPop_trace : (kqPop s).trace = s.trace := rfl
@[simp] theorem kqPop_runState : (kqPop s).runState = s.runState := rfl

section
variable (i : Nat) (v : Bool)
@[simp] theorem setStatus_ram : (setStatus i v s).ram = s.ram := rfl
@[simp] theorem setStatus_rom : (setStatus i v s).rom = s.rom := rfl
@[simp] theorem setStatus_romSize : (setStatus i v s).romSize = s.romSize := rfl
@[simp] theorem setStatus_ctrl : (setStatus i v s).ctrl = s.ctrl := rfl
@[simp] theorem setStatus_parLatch : (setStatus i v s).parLatch = s.parLatch := rfl
@[simp] theorem setStatus_rx : (setStatus i v s).rx = s.rx := rfl
@[simp] theorem setStatus_tx : (setStatus i v s).tx = s.tx := rfl
@[simp] theorem setStatus_key : (setStatus i v s).key = s.key := rfl
@[simp] theorem setStatus_vblank : (setStatus i v s).vblank = s.vblank := rfl
@[simp] theorem setStatus_mask : (setStatus i v s).mask = s.mask := rfl
@[simp] theorem setStatus_psgLatch : (setStatus i v s).psgLatch = s.psgLatch := rfl
@[simp] theorem setStatus_fdc : (setStatus i v s).fdc = { s.fdc with status := setBit s.fdc.status i v } := rfl
@[simp] theorem setStatus_drive0 : (setStatus i v s).drive0 = s.drive0 := rfl
@[simp] theorem setStatus_drive1 : (setStatus i v s).drive1 = s.drive1 := rfl
@[simp] theorem setStatus_kq : (setStatus i v s).kq = s.kq := rfl
@[simp] theorem setStatus_kqRd : (setStatus i v s).kqRd = s.kqRd := rfl
@[simp] theorem setStatus_kqWr : (setStatus i v s).kqWr = s.kqWr := rfl
@[simp] theorem setStatus_cycles : (setStatus i v s).cycles = s.cycles := rfl
@[simp] theorem setStatus_nextBoundary : (setStatus i v s).nextBoundary = s.nextBoundary := rfl
@[simp] theorem setStatus_slice : (setStatus i v s).slice = s.slice := rfl
@[simp] theorem setStatus_kbdIdle : (setStatus i v s).kbdIdle = s.kbdIdle := rfl
@[simp] theorem setStatus_stop : (setStatus i v s).stop = s.stop := rfl
@[simp] theorem setStatus_faulted : (setStatus i v s).faulted = s.faulted := rfl
@[simp] theorem setStatus_params : (setStatus i v s).params = s.params := rfl
@[simp] theorem setStatus_input : (setStatus i v s).input = s.input := rfl
@[simp] theorem setStatus_answers : (setStatus i v s).answers = s.answers := rfl
@[simp] theorem setStatus_trace : (setStatus i v s).trace = s.trace := rfl
@[simp] theorem setStatus_runState : (setStatus i v s).runState = s.runState := rfl
end

@[simp] theorem enterIdle_ram : (enterIdle s).ram = s.ram := rfl
@[simp] theorem enterIdle_rom : (enterIdle s).rom = s.rom := rfl
@[simp] theorem enterIdle_romSize : (enterIdle s).romSize = s.romSize := rfl
@[simp] theorem enterIdle_ctrl : (enterIdle s).ctrl = s.ctrl := rfl
@[simp] theorem enterIdle_parLatch : (enterIdle s).parLatch = s.parLatch := rfl
@[simp] theorem enterIdle_rx : (enterIdle s).rx = s.rx := rfl
@[simp] theorem enterIdle_tx : (enterIdle s).tx = s.tx := rfl
@[simp] theorem enterIdle_key : (enterIdle s).key = s.key := rfl
@[simp] theorem enterIdle_vblank : (enterIdle s).vblank = s.vblank := rfl
@[simp] theorem enterIdle_mask : (enterIdle s).mask = s.mask := rfl
@[simp] theorem enterIdle_psgLatch : (enterIdle s).psgLatch = s.psgLatch := rfl
@[simp] theorem enterIdle_drive0 : (enterIdle s).drive0 = s.drive0 := rfl
@[simp] theorem enterIdle_drive1 : (enterIdle s).drive1 = s.drive1 := rfl
@[simp] theorem enterIdle_kq : (enterIdle s).kq = s.kq := rfl
@[simp] theorem enterIdle_kqRd : (enterIdle s).kqRd = s.kqRd := rfl
@[simp] theorem enterIdle_kqWr : (enterIdle s).kqWr = s.kqWr := rfl
@[simp] theorem enterIdle_cycles : (enterIdle s).cycles = s.cycles := rfl
@[simp] theorem enterIdle_nextBoundary : (enterIdle s).nextBoundary = s.nextBoundary := rfl
@[simp] theorem enterIdle_slice : (enterIdle s).slice = s.slice := rfl
@[simp] theorem enterIdle_kbdIdle : (enterIdle s).kbdIdle = s.kbdIdle := rfl
@[simp] theorem enterIdle_stop : (enterIdle s).stop = s.stop := rfl
@[simp] theorem enterIdle_faulted : (enterIdle s).faulted = s.faulted := rfl
@[simp] theorem enterIdle_params : (enterIdle s).params = s.params := rfl
@[simp] theorem enterIdle_input : (enterIdle s).input = s.input := rfl
@[simp] theorem enterIdle_answers : (enterIdle s).answers = s.answers := rfl
@[simp] theorem enterIdle_trace : (enterIdle s).trace = s.trace := rfl
@[simp] theorem enterIdle_runState : (enterIdle s).runState = s.runState := rfl

section
variable (m : Memory) (n : Nat)
@[simp] theorem loadStream_ram : (loadStream m n s).ram = s.ram := rfl
@[simp] theorem loadStream_rom : (loadStream m n s).rom = s.rom := rfl
@[simp] theorem loadStream_romSize : (loadStream m n s).romSize = s.romSize := rfl
@[simp] theorem loadStream_ctrl : (loadStream m n s).ctrl = s.ctrl := rfl
@[simp] theorem loadStream_parLatch : (loadStream m n s).parLatch = s.parLatch := rfl
@[simp] theorem loadStream_rx : (loadStream m n s).rx = s.rx := rfl
@[simp] theorem loadStream_tx : (loadStream m n s).tx = s.tx := rfl
@[simp] theorem loadStream_key : (loadStream m n s).key = s.key := rfl
@[simp] theorem loadStream_vblank : (loadStream m n s).vblank = s.vblank := rfl
@[simp] theorem loadStream_mask : (loadStream m n s).mask = s.mask := rfl
@[simp] theorem loadStream_psgLatch : (loadStream m n s).psgLatch = s.psgLatch := rfl
@[simp] theorem loadStream_drive0 : (loadStream m n s).drive0 = s.drive0 := rfl
@[simp] theorem loadStream_drive1 : (loadStream m n s).drive1 = s.drive1 := rfl
@[simp] theorem loadStream_kq : (loadStream m n s).kq = s.kq := rfl
@[simp] theorem loadStream_kqRd : (loadStream m n s).kqRd = s.kqRd := rfl
@[simp] theorem loadStream_kqWr : (loadStream m n s).kqWr = s.kqWr := rfl
@[simp] theorem loadStream_cycles : (loadStream m n s).cycles = s.cycles := rfl
@[simp] theorem loadStream_nextBoundary : (loadStream m n s).nextBoundary = s.nextBoundary := rfl
@[simp] theorem loadStream_slice : (loadStream m n s).slice = s.slice := rfl
@[simp] theorem loadStream_kbdIdle : (loadStream m n s).kbdIdle = s.kbdIdle := rfl
@[simp] theorem loadStream_stop : (loadStream m n s).stop = s.stop := rfl
@[simp] theorem loadStream_faulted : (loadStream m n s).faulted = s.faulted := rfl
@[simp] theorem loadStream_params : (loadStream m n s).params = s.params := rfl
@[simp] theorem loadStream_input : (loadStream m n s).input = s.input := rfl
@[simp] theorem loadStream_answers : (loadStream m n s).answers = s.answers := rfl
@[simp] theorem loadStream_trace : (loadStream m n s).trace = s.trace := rfl
@[simp] theorem loadStream_runState : (loadStream m n s).runState = s.runState := rfl
end

@[simp] theorem fdcTick_ram : (fdcTick s).ram = s.ram := rfl
@[simp] theorem fdcTick_rom : (fdcTick s).rom = s.rom := rfl
@[simp] theorem fdcTick_romSize : (fdcTick s).romSize = s.romSize := rfl
@[simp] theorem fdcTick_ctrl : (fdcTick s).ctrl = s.ctrl := rfl
@[simp] theorem fdcTick_parLatch : (fdcTick s).parLatch = s.parLatch := rfl
@[simp] theorem fdcTick_rx : (fdcTick s).rx = s.rx := rfl
@[simp] theorem fdcTick_tx : (fdcTick s).tx = s.tx := rfl
@[simp] theorem fdcTick_key : (fdcTick s).key = s.key := rfl
@[simp] theorem fdcTick_vblank : (fdcTick s).vblank = s.vblank := rfl
@[simp] theorem fdcTick_mask : (fdcTick s).mask = s.mask := rfl
@[simp] theorem fdcTick_psgLatch : (fdcTick s).psgLatch = s.psgLatch := rfl
@[simp] theorem fdcTick_fdc : (fdcTick s).fdc = { s.fdc with rot := (s.fdc.rot + 1) % s.params.indexPeriod } := rfl
@[simp] theorem fdcTick_drive0 : (fdcTick s).drive0 = s.drive0 := rfl
@[simp] theorem fdcTick_drive1 : (fdcTick s).drive1 = s.drive1 := rfl
@[simp] theorem fdcTick_kq : (fdcTick s).kq = s.kq := rfl
@[simp] theorem fdcTick_kqRd : (fdcTick s).kqRd = s.kqRd := rfl
@[simp] theorem fdcTick_kqWr : (fdcTick s).kqWr = s.kqWr := rfl
@[simp] theorem fdcTick_cycles : (fdcTick s).cycles = s.cycles := rfl
@[simp] theorem fdcTick_nextBoundary : (fdcTick s).nextBoundary = s.nextBoundary := rfl
@[simp] theorem fdcTick_slice : (fdcTick s).slice = s.slice := rfl
@[simp] theorem fdcTick_kbdIdle : (fdcTick s).kbdIdle = s.kbdIdle := rfl
@[simp] theorem fdcTick_stop : (fdcTick s).stop = s.stop := rfl
@[simp] theorem fdcTick_faulted : (fdcTick s).faulted = s.faulted := rfl
@[simp] theorem fdcTick_params : (fdcTick s).params = s.params := rfl
@[simp] theorem fdcTick_input : (fdcTick s).input = s.input := rfl
@[simp] theorem fdcTick_answers : (fdcTick s).answers = s.answers := rfl
@[simp] theorem fdcTick_trace : (fdcTick s).trace = s.trace := rfl
@[simp] theorem fdcTick_runState : (fdcTick s).runState = s.runState := rfl

@[simp] theorem setStop_ram : (setStop s).ram = s.ram := rfl
@[simp] theorem setStop_rom : (setStop s).rom = s.rom := rfl
@[simp] theorem setStop_romSize : (setStop s).romSize = s.romSize := rfl
@[simp] theorem setStop_ctrl : (setStop s).ctrl = s.ctrl := rfl
@[simp] theorem setStop_parLatch : (setStop s).parLatch = s.parLatch := rfl
@[simp] theorem setStop_rx : (setStop s).rx = s.rx := rfl
@[simp] theorem setStop_tx : (setStop s).tx = s.tx := rfl
@[simp] theorem setStop_key : (setStop s).key = s.key := rfl
@[simp] theorem setStop_vblank : (setStop s).vblank = s.vblank := rfl
@[simp] theorem setStop_mask : (setStop s).mask = s.mask := rfl
@[simp] theorem setStop_psgLatch : (setStop s).psgLatch = s.psgLatch := rfl
@[simp] theorem setStop_fdc : (setStop s).fdc = s.fdc := rfl
@[simp] theorem setStop_drive0 : (setStop s).drive0 = s.drive0 := rfl
@[simp] theorem setStop_drive1 : (setStop s).drive1 = s.drive1 := rfl
@[simp] theorem setStop_kq : (setStop s).kq = s.kq := rfl
@[simp] theorem setStop_kqRd : (setStop s).kqRd = s.kqRd := rfl
@[simp] theorem setStop_kqWr : (setStop s).kqWr = s.kqWr := rfl
@[simp] theorem setStop_cycles : (setStop s).cycles = s.cycles := rfl
@[simp] theorem setStop_nextBoundary : (setStop s).nextBoundary = s.nextBoundary := rfl
@[simp] theorem setStop_slice : (setStop s).slice = s.slice := rfl
@[simp] theorem setStop_kbdIdle : (setStop s).kbdIdle = s.kbdIdle := rfl
@[simp] theorem setStop_stop : (setStop s).stop = true := rfl
@[simp] theorem setStop_faulted : (setStop s).faulted = s.faulted := rfl
@[simp] theorem setStop_params : (setStop s).params = s.params := rfl
@[simp] theorem setStop_input : (setStop s).input = s.input := rfl
@[simp] theorem setStop_answers : (setStop s).answers = s.answers := rfl
@[simp] theorem setStop_trace : (setStop s).trace = s.trace := rfl
@[simp] theorem setStop_runState : (setStop s).runState = s.runState := rfl

section
variable (d : DriveId) (i : Option Image)
@[simp] theorem setDriveImage_ram : (setDriveImage d i s).ram = s.ram := by cases d <;> rfl
@[simp] theorem setDriveImage_rom : (setDriveImage d i s).rom = s.rom := by cases d <;> rfl
@[simp] theorem setDriveImage_romSize : (setDriveImage d i s).romSize = s.romSize := by cases d <;> rfl
@[simp] theorem setDriveImage_ctrl : (setDriveImage d i s).ctrl = s.ctrl := by cases d <;> rfl
@[simp] theorem setDriveImage_parLatch : (setDriveImage d i s).parLatch = s.parLatch := by cases d <;> rfl
@[simp] theorem setDriveImage_rx : (setDriveImage d i s).rx = s.rx := by cases d <;> rfl
@[simp] theorem setDriveImage_tx : (setDriveImage d i s).tx = s.tx := by cases d <;> rfl
@[simp] theorem setDriveImage_key : (setDriveImage d i s).key = s.key := by cases d <;> rfl
@[simp] theorem setDriveImage_vblank : (setDriveImage d i s).vblank = s.vblank := by cases d <;> rfl
@[simp] theorem setDriveImage_mask : (setDriveImage d i s).mask = s.mask := by cases d <;> rfl
@[simp] theorem setDriveImage_psgLatch : (setDriveImage d i s).psgLatch = s.psgLatch := by cases d <;> rfl
@[simp] theorem setDriveImage_fdc : (setDriveImage d i s).fdc = s.fdc := by cases d <;> rfl
@[simp] theorem setDriveImage_kq : (setDriveImage d i s).kq = s.kq := by cases d <;> rfl
@[simp] theorem setDriveImage_kqRd : (setDriveImage d i s).kqRd = s.kqRd := by cases d <;> rfl
@[simp] theorem setDriveImage_kqWr : (setDriveImage d i s).kqWr = s.kqWr := by cases d <;> rfl
@[simp] theorem setDriveImage_cycles : (setDriveImage d i s).cycles = s.cycles := by cases d <;> rfl
@[simp] theorem setDriveImage_nextBoundary : (setDriveImage d i s).nextBoundary = s.nextBoundary := by cases d <;> rfl
@[simp] theorem setDriveImage_slice : (setDriveImage d i s).slice = s.slice := by cases d <;> rfl
@[simp] theorem setDriveImage_kbdIdle : (setDriveImage d i s).kbdIdle = s.kbdIdle := by cases d <;> rfl
@[simp] theorem setDriveImage_stop : (setDriveImage d i s).stop = s.stop := by cases d <;> rfl
@[simp] theorem setDriveImage_faulted : (setDriveImage d i s).faulted = s.faulted := by cases d <;> rfl
@[simp] theorem setDriveImage_params : (setDriveImage d i s).params = s.params := by cases d <;> rfl
@[simp] theorem setDriveImage_input : (setDriveImage d i s).input = s.input := by cases d <;> rfl
@[simp] theorem setDriveImage_answers : (setDriveImage d i s).answers = s.answers := by cases d <;> rfl
@[simp] theorem setDriveImage_trace : (setDriveImage d i s).trace = s.trace := by cases d <;> rfl
@[simp] theorem setDriveImage_runState : (setDriveImage d i s).runState = s.runState := by cases d <;> rfl
end

@[simp] theorem setFlag_rx (v : Bool) : setFlag .rx v s = { s with rx := v } := rfl
@[simp] theorem setFlag_tx (v : Bool) : setFlag .tx v s = { s with tx := v } := rfl
@[simp] theorem setFlag_key (v : Bool) : setFlag .key v s = { s with key := v } := rfl
@[simp] theorem setFlag_vblank (v : Bool) : setFlag .vblank v s = { s with vblank := v } := rfl

/-! Each request flag after a flag operation on it or on another. -/
@[simp] theorem flagSet_rx_rx : (flagSet .rx s).rx = true := rfl
@[simp] theorem flagSet_rx_tx : (flagSet .rx s).tx = s.tx := rfl
@[simp] theorem flagSet_rx_key : (flagSet .rx s).key = s.key := rfl
@[simp] theorem flagSet_rx_vblank : (flagSet .rx s).vblank = s.vblank := rfl
@[simp] theorem flagSet_tx_rx : (flagSet .tx s).rx = s.rx := rfl
@[simp] theorem flagSet_tx_tx : (flagSet .tx s).tx = true := rfl
@[simp] theorem flagSet_tx_key : (flagSet .tx s).key = s.key := rfl
@[simp] theorem flagSet_tx_vblank : (flagSet .tx s).vblank = s.vblank := rfl
@[simp] theorem flagSet_key_rx : (flagSet .key s).rx = s.rx := rfl
@[simp] theorem flagSet_key_tx : (flagSet .key s).tx = s.tx := rfl
@[simp] theorem flagSet_key_key : (flagSet .key s).key = true := rfl
@[simp] theorem flagSet_key_vblank : (flagSet .key s).vblank = s.vblank := rfl
@[simp] theorem flagSet_vblank_rx : (flagSet .vblank s).rx = s.rx := rfl
@[simp] theorem flagSet_vblank_tx : (flagSet .vblank s).tx = s.tx := rfl
@[simp] theorem flagSet_vblank_key : (flagSet .vblank s).key = s.key := rfl
@[simp] theorem flagSet_vblank_vblank : (flagSet .vblank s).vblank = true := rfl
@[simp] theorem flagClear_rx_rx : (flagClear .rx s).rx = false := rfl
@[simp] theorem flagClear_rx_tx : (flagClear .rx s).tx = s.tx := rfl
@[simp] theorem flagClear_rx_key : (flagClear .rx s).key = s.key := rfl
@[simp] theorem flagClear_rx_vblank : (flagClear .rx s).vblank = s.vblank := rfl
@[simp] theorem flagClear_tx_rx : (flagClear .tx s).rx = s.rx := rfl
@[simp] theorem flagClear_tx_tx : (flagClear .tx s).tx = false := rfl
@[simp] theorem flagClear_tx_key : (flagClear .tx s).key = s.key := rfl
@[simp] theorem flagClear_tx_vblank : (flagClear .tx s).vblank = s.vblank := rfl
@[simp] theorem flagClear_key_rx : (flagClear .key s).rx = s.rx := rfl
@[simp] theorem flagClear_key_tx : (flagClear .key s).tx = s.tx := rfl
@[simp] theorem flagClear_key_key : (flagClear .key s).key = false := rfl
@[simp] theorem flagClear_key_vblank : (flagClear .key s).vblank = s.vblank := rfl
@[simp] theorem flagClear_vblank_rx : (flagClear .vblank s).rx = s.rx := rfl
@[simp] theorem flagClear_vblank_tx : (flagClear .vblank s).tx = s.tx := rfl
@[simp] theorem flagClear_vblank_key : (flagClear .vblank s).key = s.key := rfl
@[simp] theorem flagClear_vblank_vblank : (flagClear .vblank s).vblank = false := rfl

@[simp] theorem flagValue_setFlag (f : Flag) (v : Bool) : flagValue f (setFlag f v s) = v := by cases f <;> rfl

theorem flagValue_setFlag_other (f g : Flag) (v : Bool) (h : f ≠ g) :
    flagValue g (setFlag f v s) = flagValue g s := by
  cases f <;> cases g <;> first | rfl | exact absurd rfl h

@[simp] theorem driveImage_setDriveImage (d : DriveId) (i : Option Image) :
    driveImage d (setDriveImage d i s) = i := by cases d <;> rfl

theorem driveImage_setDriveImage_other (d e : DriveId) (i : Option Image) (h : d ≠ e) :
    driveImage e (setDriveImage d i s) = driveImage e s := by
  cases d <;> cases e <;> first | rfl | exact absurd rfl h

@[simp] theorem enterIdle_mode : (enterIdle s).fdc.mode = .idle := rfl
@[simp] theorem enterIdle_streamDrive : (enterIdle s).fdc.streamDrive = none := rfl
@[simp] theorem enterIdle_track : (enterIdle s).fdc.track = s.fdc.track := rfl
@[simp] theorem enterIdle_sector : (enterIdle s).fdc.sector = s.fdc.sector := rfl
@[simp] theorem enterIdle_data : (enterIdle s).fdc.data = s.fdc.data := rfl
@[simp] theorem enterIdle_buf : (enterIdle s).fdc.buf = s.fdc.buf := rfl
@[simp] theorem enterIdle_len : (enterIdle s).fdc.len = s.fdc.len := rfl
@[simp] theorem enterIdle_cursor : (enterIdle s).fdc.cursor = s.fdc.cursor := rfl
@[simp] theorem enterIdle_driveSelect : (enterIdle s).fdc.driveSelect = s.fdc.driveSelect := rfl
@[simp] theorem enterIdle_rot : (enterIdle s).fdc.rot = s.fdc.rot := rfl

section
variable (m : Memory) (n : Nat)
@[simp] theorem loadStream_mode : (loadStream m n s).fdc.mode = .streamingRead := rfl
@[simp] theorem loadStream_streamDrive : (loadStream m n s).fdc.streamDrive = driveOf s.fdc.driveSelect := rfl
@[simp] theorem loadStream_track : (loadStream m n s).fdc.track = s.fdc.track := rfl
@[simp] theorem loadStream_sector : (loadStream m n s).fdc.sector = s.fdc.sector := rfl
@[simp] theorem loadStream_data : (loadStream m n s).fdc.data = s.fdc.data := rfl
@[simp] theorem loadStream_buf : (loadStream m n s).fdc.buf = Memory.overlay m n s.fdc.buf := rfl
@[simp] theorem loadStream_len : (loadStream m n s).fdc.len = n := rfl
@[simp] theorem loadStream_cursor : (loadStream m n s).fdc.cursor = 0 := rfl
@[simp] theorem loadStream_driveSelect : (loadStream m n s).fdc.driveSelect = s.fdc.driveSelect := rfl
@[simp] theorem loadStream_rot : (loadStream m n s).fdc.rot = s.fdc.rot := rfl
end

end Sys2Proof.Machine
end

