-- ==== Sys2Proof/Laws/Ops.lean ====
section
/-! SUPPORT. One lemma for each shared operation that says once everything it can do, and the induction over a CPU
phase, packaged once. -/

namespace Sys2Proof.Machine

/-! ### Outcomes -/

@[simp] theorem andThen_of_next (s : State) (f : State → Result) : andThen (.next s) f = f s := rfl
@[simp] theorem andThen_of_fault (e : Fault) (f : State → Result) : andThen (.fault e) f = .fault e := rfl
@[simp] theorem andThen_of_refused (e : Refusal) (f : State → Result) : andThen (.refused e) f = .refused e := rfl

theorem andThen_eq_next {r : Result} {f : State → Result} {t : State} :
    andThen r f = .next t ↔ ∃ u, r = .next u ∧ f u = .next t := by
  cases r <;> simp

theorem andThen_eq_fault {r : Result} {f : State → Result} {e : Fault} :
    andThen r f = .fault e ↔ r = .fault e ∨ ∃ u, r = .next u ∧ f u = .fault e := by
  cases r <;> simp

@[simp] theorem raiseFatal_ne_next (r : FatalReason) (s t : State) : raiseFatal r s ≠ .next t := by
  simp [raiseFatal]

@[simp] theorem refuse_ne_next (e : ConfigError) (t : State) : refuse e ≠ .next t := by simp [refuse]

@[simp] theorem refuse_ne_fault (e : ConfigError) (x : Fault) : refuse e ≠ .fault x := by simp [refuse]

/-- One operation more, at the end of a repetition. -/
theorem repeatExec_succ {k : Nat} {i : Instr} {s t : State} (h : repeatExec k i s = .next t) :
    repeatExec (k + 1) i s = exec i t := by
  induction k generalizing s with
  | zero =>
    rw [repeatExec] at h
    cases h
    rw [repeatExec]
    cases exec i t <;> rfl
  | succ k ih =>
    rw [repeatExec] at h ⊢
    obtain ⟨u, hu, h2⟩ := andThen_eq_next.1 h
    rw [hu, andThen_of_next]
    exact ih h2

/-! ### Bits -/

/-- What a bit of a byte is after one bit is set. -/
theorem getLsbD_setBit (b : Byte) (i j : Nat) (v : Bool) (hi : i < 8) (hj : j < 8) :
    (setBit b i v).getLsbD j = if j = i then v else b.getLsbD j := by
  have e : (1#8 <<< i).getLsbD j = decide (j = i) := by
    rw [BitVec.getLsbD_shiftLeft]
    by_cases h : j < i
    · simp [h, show j ≠ i by omega]
    · by_cases h2 : j = i
      · simp [h2, hi]
      · simp [h2, hj, h, show j - i ≠ 0 by omega, BitVec.getLsbD_one]
  cases v
  · have : (setBit b i false).getLsbD j = (b.getLsbD j && !decide (j = i)) := by
      rw [← e]
      simp only [setBit, Bool.false_eq_true, if_false, BitVec.getLsbD_and, BitVec.getLsbD_not, hj, decide_true,
        Bool.true_and]
    rw [this]
    by_cases h : j = i <;> simp [h]
  · have : (setBit b i true).getLsbD j = (b.getLsbD j || decide (j = i)) := by
      rw [← e]
      simp only [setBit, if_true, BitVec.getLsbD_or]
    rw [this]
    by_cases h : j = i <;> simp [h]

/-- The same at any bit index: a byte has no bit from 8 on. -/
theorem getLsbD_setBit_any (b : Byte) (i j : Nat) (v : Bool) (hi : i < 8) :
    (setBit b i v).getLsbD j = if j = i then v else b.getLsbD j := by
  by_cases h : j < 8
  · exact getLsbD_setBit b i j v hi h
  · rw [BitVec.getLsbD_of_ge _ _ (by omega), BitVec.getLsbD_of_ge _ _ (by omega), if_neg (by omega)]

/-- The status bits after one of them is set. -/
theorem setStatus_bit (i : Nat) (v : Bool) (s : State) (j : Nat) (hi : i < 8) :
    (setStatus i v s).fdc.status.getLsbD j = if j = i then v else s.fdc.status.getLsbD j :=
  getLsbD_setBit_any _ _ _ _ hi

/-- ENTER_IDLE clears BUSY and DRQ and leaves the other status bits (R211). -/
theorem enterIdle_bit (s : State) (j : Nat) :
    (enterIdle s).fdc.status.getLsbD j = if j = 0 ∨ j = 1 then false else s.fdc.status.getLsbD j := by
  simp only [enterIdle, getLsbD_setBit_any _ _ _ _ (show bitDrq < 8 by decide),
    getLsbD_setBit_any _ _ _ _ (show bitBusy < 8 by decide)]
  by_cases h0 : j = 0 <;> by_cases h1 : j = 1 <;> simp_all

/-- LOAD_STREAM sets BUSY and DRQ and leaves the other status bits (R228). -/
theorem loadStream_bit (m : Memory) (n : Nat) (s : State) (j : Nat) :
    (loadStream m n s).fdc.status.getLsbD j = if j = 0 ∨ j = 1 then true else s.fdc.status.getLsbD j := by
  simp only [loadStream, getLsbD_setBit_any _ _ _ _ (show bitDrq < 8 by decide),
    getLsbD_setBit_any _ _ _ _ (show bitBusy < 8 by decide)]
  by_cases h0 : j = 0 <;> by_cases h1 : j = 1 <;> simp_all

/-! ### Draws -/

/-- A byte draw takes the answer that stands first. -/
theorem nextByte_cons {s : State} {b : Byte} {bs : List Byte} (h : s.answers.bytes = b :: bs) : nextByte s = b := by
  simp [nextByte, h]

/-! ### The interrupt line -/

/-- The encoder's inputs are the four flags and the mask, nothing else. -/
theorem requests_congr {s t : State} (hr : t.rx = s.rx) (ht : t.tx = s.tx) (hk : t.key = s.key)
    (hv : t.vblank = s.vblank) (hm : t.mask = s.mask) : requests t = requests s := by
  simp [requests, hr, ht, hk, hv, hm]

theorem active_congr {s t : State} (h : requests t = requests s) : active t = active s := by simp [active, h]
theorem vector_congr {s t : State} (h : requests t = requests s) : vector t = vector s := by simp [vector, h]

theorem lineEvents_congr {s t : State} (h : requests t = requests s) : lineEvents t = lineEvents s := by
  simp [lineEvents, portb, active_congr h, vector_congr h]

/-- RECOMPUTE tells the line and nothing else (R136). -/
theorem recompute_eq (s : State) : recompute s = { s with trace := lineEvents s ++ s.trace } := rfl

theorem flagSet_eq (f : Flag) (s : State) :
    flagSet f s = { setFlag f true s with trace := lineEvents (setFlag f true s) ++ s.trace } := by
  cases f <;> rfl

theorem flagClear_eq (f : Flag) (s : State) :
    flagClear f s = { setFlag f false s with trace := lineEvents (setFlag f false s) ++ s.trace } := by
  cases f <;> rfl

/-- After a recompute the CPU has been told the line as it is (R136, R139). -/
theorem lineDriven_recompute (s : State) : LineDriven (recompute s) := rfl

theorem lineDriven_congr {s t : State} (h : LineDriven s) (ht : lastLine t.trace = lastLine s.trace)
    (hr : requests t = requests s) : LineDriven t := by
  unfold LineDriven at *
  rw [ht, h, active_congr hr, vector_congr hr]

/-! ### The control register -/

/-- The two things a strobe edge can do (R165). -/
theorem strobeEdge_cases (old new : Byte) (s : State) :
    (ctrlStrobe s.params old = true ∧ ctrlStrobe s.params new = false ∧ s.params.sinkAttached = true) ∧
      strobeEdge old new s = { s with trace := .sinkByte s.parLatch :: s.trace } ∨
    ¬ (ctrlStrobe s.params old = true ∧ ctrlStrobe s.params new = false ∧ s.params.sinkAttached = true) ∧
      strobeEdge old new s = s := by
  unfold strobeEdge
  split
  · exact .inl ⟨‹_›, rfl⟩
  · exact .inr ⟨‹_›, rfl⟩

/-! ### The PSG -/

theorem psgDataWrite_eq_next {v : Byte} {s t : State} (h : psgDataWrite v s = .next t) :
    s.psgLatch.toNat ≤ 15 ∧
    (s.psgLatch = 14 ∧ t = log (.psgWrite s.psgLatch v) (maskWrite v s) ∨
     s.psgLatch ≠ 14 ∧ t = log (.psgWrite s.psgLatch v) s) := by
  unfold psgDataWrite at h
  split at h
  · exact absurd h (raiseFatal_ne_next _ _ _)
  · refine ⟨by omega, ?_⟩
    split at h
    · exact .inl ⟨‹_›, by simpa using h.symm⟩
    · exact .inr ⟨‹_›, by simpa using h.symm⟩

theorem psgDataRead_eq_next {s t : State} (h : psgDataRead s = .next t) :
    s.psgLatch.toNat ≤ 15 ∧
    (s.psgLatch = 14 ∧ t = reply s.mask s ∨ s.psgLatch = 15 ∧ t = reply (portb s) s ∨
     s.psgLatch ≠ 14 ∧ s.psgLatch ≠ 15 ∧ t = reply (nextByte s) (log (.psgRead s.psgLatch) (dropByte s))) := by
  unfold psgDataRead at h
  split at h
  · exact absurd h (raiseFatal_ne_next _ _ _)
  · refine ⟨by omega, ?_⟩
    split at h
    · exact .inl ⟨‹_›, by simpa using h.symm⟩
    · split at h
      · exact .inr (.inl ⟨‹_›, by simpa using h.symm⟩)
      · exact .inr (.inr ⟨‹_›, ‹_›, by simpa using h.symm⟩)

theorem psgAddrWrite_cases (v : Byte) (s : State) :
    v.toNat ≤ 15 ∧ psgAddrWrite v s = { s with psgLatch := v } ∨
    15 < v.toNat ∧ psgAddrWrite v s = diagnose (.psgAddress v) s := by
  unfold psgAddrWrite
  split
  · exact .inl ⟨‹_›, rfl⟩
  · exact .inr ⟨by omega, rfl⟩

/-! ### The floppy controller -/

theorem fdcDataAdvance_cases (s : State) :
    s.fdc.mode = .idle ∧ fdcDataAdvance s = s ∨
    s.fdc.mode = .streamingRead ∧ s.fdc.cursor + 1 = s.fdc.len ∧
      fdcDataAdvance s = enterIdle { s with fdc := { s.fdc with
        data := Memory.read s.fdc.buf s.fdc.cursor, cursor := s.fdc.cursor + 1 } } ∨
    s.fdc.mode = .streamingRead ∧ s.fdc.cursor + 1 ≠ s.fdc.len ∧
      fdcDataAdvance s = { s with fdc := { s.fdc with
        data := Memory.read s.fdc.buf s.fdc.cursor, cursor := s.fdc.cursor + 1 } } := by
  unfold fdcDataAdvance
  split
  · exact .inl ⟨‹_›, rfl⟩
  · dsimp only
    split
    · exact .inr (.inl ⟨‹_›, ‹_›, rfl⟩)
    · exact .inr (.inr ⟨‹_›, ‹_›, rfl⟩)

/-- The state READ SECTOR checks its operands in: Idle, both error bits clear. -/
def readSectorStart (s : State) : State := setStatus bitNotReady false (setStatus bitSeekErr false (enterIdle s))

/-- READ SECTOR starts from BUSY, DRQ and both error bits clear (R223). -/
theorem readSectorStart_bit (s : State) (j : Nat) :
    (readSectorStart s).fdc.status.getLsbD j =
      if j = 0 ∨ j = 1 ∨ j = 4 ∨ j = 7 then false else s.fdc.status.getLsbD j := by
  rw [readSectorStart, setStatus_bit _ _ _ _ (by decide), setStatus_bit _ _ _ _ (by decide), enterIdle_bit]
  by_cases h0 : j = 0 <;> by_cases h1 : j = 1 <;> by_cases h4 : j = 4 <;> by_cases h7 : j = 7 <;> simp_all

theorem readSectorCommand_cases (s : State) :
    driveOf s.fdc.driveSelect = none ∧
      readSectorCommand s = diagnose .badDrive (setStatus bitNotReady true (readSectorStart s)) ∨
    (∃ d, driveOf s.fdc.driveSelect = some d ∧ driveImage d s = none ∧
      readSectorCommand s = diagnose .noDisk (setStatus bitNotReady true (readSectorStart s))) ∨
    (∃ d img, driveOf s.fdc.driveSelect = some d ∧ driveImage d s = some img ∧
      (s.fdc.sector.toNat < 1 ∨ sectorsPerTrack s.params img.geometry < s.fdc.sector.toNat) ∧
      readSectorCommand s = diagnose .badSector (setStatus bitSeekErr true (readSectorStart s))) ∨
    (∃ d img, driveOf s.fdc.driveSelect = some d ∧ driveImage d s = some img ∧
      1 ≤ s.fdc.sector.toNat ∧ s.fdc.sector.toNat ≤ sectorsPerTrack s.params img.geometry ∧
      geometryBytes img.geometry <
        sectorOffset s.fdc.track s.fdc.sector (sectorsPerTrack s.params img.geometry) + 1024 ∧
      readSectorCommand s = diagnose .beyondImage (setStatus bitSeekErr true (readSectorStart s))) ∨
    (∃ d img, driveOf s.fdc.driveSelect = some d ∧ driveImage d s = some img ∧
      1 ≤ s.fdc.sector.toNat ∧ s.fdc.sector.toNat ≤ sectorsPerTrack s.params img.geometry ∧
      sectorOffset s.fdc.track s.fdc.sector (sectorsPerTrack s.params img.geometry) + 1024
        ≤ geometryBytes img.geometry ∧
      readSectorCommand s = loadStream (Memory.slice img.data
        (sectorOffset s.fdc.track s.fdc.sector (sectorsPerTrack s.params img.geometry)) 1024) 1024
        (readSectorStart s)) := by
  have hdr : ∀ d, driveImage d (readSectorStart s) = driveImage d s := fun d => by cases d <;> rfl
  cases hd : driveOf s.fdc.driveSelect with
  | none => exact .inl ⟨rfl, by simp [readSectorCommand, readSectorStart, hd]⟩
  | some d =>
    right
    cases hi : driveImage d s with
    | none =>
      refine .inl ⟨d, rfl, hi, ?_⟩
      have := hdr d
      simp only [readSectorStart] at this
      simp [readSectorCommand, readSectorStart, hd, this, hi]
    | some img =>
      right
      have := hdr d
      simp only [readSectorStart] at this
      by_cases h1 : s.fdc.sector.toNat < 1 ∨ sectorsPerTrack s.params img.geometry < s.fdc.sector.toNat
      · refine .inl ⟨d, img, rfl, hi, h1, ?_⟩
        simp only [readSectorCommand, readSectorStart, setStatus_fdc, enterIdle_driveSelect, hd, this, hi,
          setStatus_params, enterIdle_params, enterIdle_sector]
        exact if_pos h1
      · right
        by_cases h2 : geometryBytes img.geometry <
            sectorOffset s.fdc.track s.fdc.sector (sectorsPerTrack s.params img.geometry) + 1024
        · refine .inl ⟨d, img, rfl, hi, by omega, by omega, h2, ?_⟩
          simp only [readSectorCommand, readSectorStart, setStatus_fdc, enterIdle_driveSelect, hd, this, hi,
            setStatus_params, enterIdle_params, enterIdle_sector, enterIdle_track]
          exact (if_neg h1).trans (if_pos h2)
        · refine .inr ⟨d, img, rfl, hi, by omega, by omega, by omega, ?_⟩
          simp only [readSectorCommand, readSectorStart, setStatus_fdc, enterIdle_driveSelect, hd, this, hi,
            setStatus_params, enterIdle_params, enterIdle_sector, enterIdle_track]
          exact (if_neg h1).trans (if_neg h2)

/-! ### Host actions -/

theorem insertDisk_eq_next {d : Byte} {img : Option RawImage} {s t : State} (h : insertDisk d img s = .next t) :
    ∃ dr raw g, driveOf d = some dr ∧ img = some raw ∧ geometryOfSize raw.size = some g ∧
      driveImage dr s = none ∧
      t = setDriveImage dr (some ⟨g, Memory.normalize raw.size raw.data⟩) s := by
  unfold insertDisk at h
  split at h
  · exact absurd h (refuse_ne_next _ _)
  · rename_i dr hd
    split at h
    · exact absurd h (refuse_ne_next _ _)
    · rename_i raw
      split at h
      · exact absurd h (refuse_ne_next _ _)
      · rename_i g hg
        split at h
        · exact absurd h (refuse_ne_next _ _)
        · exact ⟨dr, raw, g, hd, rfl, hg, ‹_›, by simpa using h.symm⟩

theorem ejectDisk_eq_next {d : Byte} {s t : State} (h : ejectDisk d s = .next t) :
    ∃ dr, driveOf d = some dr ∧
      (driveImage dr s = none ∧ t = diagnose (.driveEmpty dr) s ∨
       driveImage dr s ≠ none ∧ s.fdc.mode = .streamingRead ∧ s.fdc.streamDrive = some dr ∧
         t = setDriveImage dr none (enterIdle s) ∨
       driveImage dr s ≠ none ∧ ¬ (s.fdc.mode = .streamingRead ∧ s.fdc.streamDrive = some dr) ∧
         t = setDriveImage dr none s) := by
  unfold ejectDisk at h
  split at h
  · exact absurd h (refuse_ne_next _ _)
  · rename_i dr hd
    refine ⟨dr, hd, ?_⟩
    split at h
    · exact .inl ⟨‹_›, by simpa using h.symm⟩
    · rename_i i hi
      have hn : driveImage dr s ≠ none := by simp [hi]
      split at h
      · rename_i hc
        exact .inr (.inl ⟨hn, hc.1, hc.2, by simpa using h.symm⟩)
      · exact .inr (.inr ⟨hn, ‹_›, by simpa using h.symm⟩)

theorem loadRom_eq_next {img : RawImage} {s t : State} (h : loadRom img s = .next t) :
    s.runState = .notStarted ∧ ∃ z, romSizeOf img.size = some z ∧
      t = { s with rom := Memory.overlay (Memory.normalize img.size img.data) img.size s.rom, romSize := z } := by
  unfold loadRom at h
  split at h
  · exact absurd h (refuse_ne_next _ _)
  · refine ⟨by simpa using ‹¬ s.runState ≠ RunState.notStarted›, ?_⟩
    split at h
    · exact absurd h (refuse_ne_next _ _)
    · exact ⟨_, ‹_›, by simpa using h.symm⟩

theorem insertDisk_ne_fault (d : Byte) (img : Option RawImage) (s : State) (e : Fault) :
    insertDisk d img s ≠ .fault e := by
  unfold insertDisk
  repeat' split
  all_goals simp

theorem ejectDisk_ne_fault (d : Byte) (s : State) (e : Fault) : ejectDisk d s ≠ .fault e := by
  unfold ejectDisk
  repeat' split
  all_goals simp

/-- A host action inside a CPU phase always goes on, with the action done or, where it is refused, undone. -/
theorem hostActInPhase_cases (h : HostAct) (s : State) :
    ∃ t, hostActInPhase h s = .next t ∧
      (hostAct h s = .next t ∨ ∃ e, hostAct h s = refuse e ∧ t = log (.hostRefused e) s) := by
  unfold hostActInPhase
  have hf : ∀ e, hostAct h s ≠ .fault e := by
    intro e
    cases h <;> simp [hostAct, insertDisk_ne_fault, ejectDisk_ne_fault]
  have hr : ∀ r, hostAct h s = .refused r → ∃ e, r = .configError e := by
    intro r
    cases h with
    | keyPush b => simp [hostAct]
    | txe v => simp [hostAct]
    | stop => simp [hostAct]
    | insert d img =>
      simp only [hostAct, insertDisk, refuse]
      repeat' split
      all_goals first | (intro h; cases h; exact ⟨_, rfl⟩) | (intro h; cases h)
    | eject d =>
      simp only [hostAct, ejectDisk, refuse]
      repeat' split
      all_goals first | (intro h; cases h; exact ⟨_, rfl⟩) | (intro h; cases h)
  cases ha : hostAct h s with
  | next t => exact ⟨t, rfl, .inl rfl⟩
  | fault e => exact absurd ha (hf e)
  | refused r =>
    obtain ⟨e, rfl⟩ := hr r ha
    exact ⟨_, rfl, .inr ⟨e, rfl, rfl⟩⟩

/-! ### The scheduler -/

theorem rxPoll_cases (s : State) :
    nextBool s = true ∧ rxPoll s = flagSet .rx (log .modemPoll (dropBool s)) ∨
    nextBool s = false ∧ rxPoll s = log .modemPoll (dropBool s) := by
  cases h : nextBool s <;> simp [rxPoll, h]

theorem keyPromote_cases (s : State) :
    kqEmpty s = false ∧ s.key = false ∧ keyPromote s = flagSet .key s ∨ keyPromote s = s := by
  unfold keyPromote
  split
  · rename_i h
    exact .inl ⟨h.1, h.2, rfl⟩
  · exact .inr rfl

theorem watchdog_cases (s : State) :
    kqEmpty s = true ∧ s.kbdIdle + 1 = s.params.watchdogSlices ∧
      watchdog s = { kqPush s.params.keepaliveCode s with kbdIdle := 0 } ∨
    kqEmpty s = true ∧ s.kbdIdle + 1 ≠ s.params.watchdogSlices ∧ watchdog s = { s with kbdIdle := s.kbdIdle + 1 } ∨
    kqEmpty s = false ∧ watchdog s = { s with kbdIdle := 0 } := by
  unfold watchdog
  split
  · split
    · exact .inl ⟨‹_›, ‹_›, rfl⟩
    · exact .inr (.inl ⟨‹_›, ‹_›, rfl⟩)
  · rename_i h
    exact .inr (.inr ⟨by simpa using h, rfl⟩)

theorem frameCheck_cases (s : State) :
    s.slice ≠ s.params.slicesPerFrame ∧ frameCheck s = s ∨
    s.slice = s.params.slicesPerFrame ∧ nextBool s = true ∧
      frameCheck s = flagSet .vblank (log .vdpVblankEnable (dropBool (log .frameComplete { s with slice := 0 }))) ∨
    s.slice = s.params.slicesPerFrame ∧ nextBool s = false ∧
      frameCheck s = log .vdpVblankEnable (dropBool (log .frameComplete { s with slice := 0 })) := by
  unfold frameCheck
  split
  · cases h : nextBool s <;> simp [*]
  · exact .inl ⟨‹_›, rfl⟩

/-! What each part of a slice leaves: everything but the fields it names. -/

theorem rxPoll_frame (s : State) :
    rxPoll s = { s with rx := (rxPoll s).rx, answers := (rxPoll s).answers, trace := (rxPoll s).trace } := by
  rcases rxPoll_cases s with ⟨_, e⟩ | ⟨_, e⟩ <;> rw [e]
  all_goals simp only [flagSet_eq, setFlag, log, dropBool]

theorem keyPromote_frame (s : State) :
    keyPromote s = { s with key := (keyPromote s).key, trace := (keyPromote s).trace } := by
  rcases keyPromote_cases s with ⟨_, _, e⟩ | e <;> rw [e]
  simp only [flagSet_eq, setFlag]

theorem watchdog_frame (s : State) :
    watchdog s = { s with
      kq := (watchdog s).kq
      kqWr := (watchdog s).kqWr
      kbdIdle := (watchdog s).kbdIdle } := by
  rcases watchdog_cases s with ⟨_, _, e⟩ | ⟨_, _, e⟩ | ⟨_, e⟩ <;> (rw [e]; try rfl)

theorem renderCheck_frame (s : State) : renderCheck s = { s with trace := (renderCheck s).trace } := by
  unfold renderCheck
  split <;> rfl

theorem frameCheck_frame (s : State) :
    frameCheck s = { s with
      slice := (frameCheck s).slice
      vblank := (frameCheck s).vblank
      answers := (frameCheck s).answers
      trace := (frameCheck s).trace } := by
  rcases frameCheck_cases s with ⟨_, e⟩ | ⟨_, _, e⟩ | ⟨_, _, e⟩ <;> rw [e]
  all_goals simp only [flagSet_eq, setFlag, log, dropBool]

theorem stopCheck_frame (s : State) : stopCheck s = { s with runState := (stopCheck s).runState } := by
  unfold stopCheck
  split <;> rfl

theorem housekeeping_frame (s : State) :
    housekeeping s = { s with
      fdc := { s.fdc with rot := (s.fdc.rot + 1) % s.params.indexPeriod }
      rx := (housekeeping s).rx
      key := (housekeeping s).key
      kq := (housekeeping s).kq
      kqWr := (housekeeping s).kqWr
      kbdIdle := (housekeeping s).kbdIdle
      answers := (housekeeping s).answers
      trace := (housekeeping s).trace } := by
  have h1 := rxPoll_frame (fdcTick s)
  have h2 := keyPromote_frame (rxPoll (fdcTick s))
  have h3 := watchdog_frame (keyPromote (rxPoll (fdcTick s)))
  unfold housekeeping
  rw [h3, h2, h1]
  rfl

theorem cpuStep_eq_next {s t : State} (h : cpuStep s = .next t) :
    ∃ u, cpuActs (nextCpuStep s).acts (log (.cpuStep (active s) (vector s)) (dropCpuStep s)) = .next u ∧
      t = { u with cycles := u.cycles + ((nextCpuStep s).extra + 1) } := by
  obtain ⟨u, hu, ht⟩ := andThen_eq_next.1 h
  exact ⟨u, hu, by simpa using ht.symm⟩

/-- What every act of a CPU step keeps, a list of acts keeps. -/
theorem cpuActs_keeps {P : State → Prop} (hb : ∀ a s t, busAccess a s = .next t → P s → P t)
    (hh : ∀ h s t, hostActInPhase h s = .next t → P s → P t) :
    ∀ (l : List CpuAct) (s t : State), cpuActs l s = .next t → P s → P t := by
  intro l
  induction l with
  | nil => intro s t h p; cases h; exact p
  | cons a l ih =>
    intro s t h p
    obtain ⟨u, hu, ht⟩ := andThen_eq_next.1 h
    refine ih u t ht ?_
    cases a with
    | bus b => exact hb b s u hu p
    | host x => exact hh x s u hu p

/-- The induction over a CPU phase: what every access, every host action, the call of the CPU and the passing of
cycles keep, the phase keeps. -/
theorem cpuPhase_keeps {P : State → Prop} (hb : ∀ a s t, busAccess a s = .next t → P s → P t)
    (hh : ∀ h s t, hostActInPhase h s = .next t → P s → P t)
    (hd : ∀ s, P s → P (log (.cpuStep (active s) (vector s)) (dropCpuStep s)))
    (hc : ∀ s n, P s → P { s with cycles := s.cycles + n }) :
    ∀ s t, cpuPhase s = .next t → P s → P t := by
  have loop : ∀ n s t, cpuLoop n s = .next t → P s → P t := by
    intro n
    induction n with
    | zero => intro s t h p; cases h; exact p
    | succ n ih =>
      intro s t h p
      unfold cpuLoop at h
      split at h
      · obtain ⟨u, hu, ht⟩ := andThen_eq_next.1 h
        obtain ⟨w, hw, rfl⟩ := cpuStep_eq_next hu
        exact ih _ _ ht (hc _ _ (cpuActs_keeps hb hh _ _ _ hw (hd s p)))
      · cases h; exact p
  exact fun s t h p => loop _ s t h p

theorem sliceStep_eq_next {s t : State} (h : sliceStep s = .next t) :
    ∃ u, cpuPhase s = .next u ∧ t = sliceTail u ∧ sliceInvariant (sliceTail u) = true := by
  obtain ⟨u, hu, ht⟩ := andThen_eq_next.1 h
  unfold sliceDone at ht
  split at ht
  · exact ⟨u, hu, by simpa using ht.symm, ‹_›⟩
  · exact absurd ht (raiseFatal_ne_next _ _ _)

theorem runBlock_eq_next {s t : State} (h : runBlock s = .next t) :
    s.romSize ≠ .unloaded ∧ ∃ u, sliceStep s = .next u ∧ t = runOn u := by
  unfold runBlock at h
  split at h
  · exact absurd h (refuse_ne_next _ _)
  · obtain ⟨u, hu, ht⟩ := andThen_eq_next.1 h
    exact ⟨‹_›, u, hu, by simpa using ht.symm⟩

/-! ### The step -/

theorem checked_eq_exec {i j : Instr} {s t : State} (h : checked i s = .exec j t) :
    i = j ∧ s = t ∧ invariants s = true ∧ sliceStartOk i s = true := by
  unfold checked at h
  split at h
  · rename_i hc
    simp only [Bool.and_eq_true] at hc
    simp only [Turn.exec.injEq] at h
    exact ⟨h.1, h.2, hc.1, hc.2⟩
  · cases h

/-- Everything a turn that runs an operation can be: the first pending operation, or the next slice of a run. -/
theorem turn_eq_exec {s t : State} {i : Instr} (h : turn s = .exec i t) :
    s.faulted = false ∧ paramsOk s.params = true ∧ s.runState ≠ .ended ∧
    invariants t = true ∧ sliceStartOk i t = true ∧
    (s.input = [] ∧ s.runState = .running ∧ i = .slice ∧ t = s ∨
     ∃ b bs rest, s.input = b :: bs ∧ decode s.params (b :: bs) = .ok (i, rest) ∧ t = { s with input := rest }) := by
  unfold turn at h
  split at h
  · cases h
  · split at h
    · cases h
    · rename_i hf hp
      refine ⟨by simpa using hf, by simpa using hp, ?_⟩
      split at h
      · cases h
      · rename_i hr
        refine ⟨hr, ?_⟩
        unfold pending at h
        split at h
        · rename_i hin
          split at h
          · rename_i hrun
            obtain ⟨rfl, rfl, h1, h2⟩ := checked_eq_exec h
            exact ⟨h1, h2, .inl ⟨hin, hrun, rfl, rfl⟩⟩
          · cases h
        · rename_i b bs hin
          split at h
          · rename_i j rest hd
            obtain ⟨rfl, rfl, h1, h2⟩ := checked_eq_exec h
            exact ⟨h1, h2, .inr ⟨b, bs, rest, hin, hd, rfl⟩⟩
          · cases h

/-- Everything a step that goes on can be: an operation, or a machine that stays as it is. -/
theorem step_eq_next {s t : State} (h : step s = .next t) :
    (∃ i u, turn s = .exec i u ∧ exec i u = .next t) ∨ turn s = .idle ∧ t = s := by
  unfold step at h
  split at h
  · exact .inl ⟨_, _, ‹_›, h⟩
  · exact .inr ⟨‹_›, by simpa using h.symm⟩
  · exact absurd h (raiseFatal_ne_next _ _ _)
  · cases h

end Sys2Proof.Machine
end

