-- ==== Sys2Proof/Laws/PerInstr.lean ====
section
/-! SUPPORT. A fact about every operation as syntax, one lemma per constructor: its encoding is never empty, so a
pending operation is always seen by the step (Machine/Fetch.lean reads an empty input as "nothing pending"). -/

namespace Sys2Proof.Laws

/-- The encoding of the operation has a first byte. -/
def EncodeNonempty.Statement (i : Instr) : Prop := ∀ p : Params, ∃ k r, encode p i = k :: r

theorem EncodeNonempty.memRd (a : Addr) : EncodeNonempty.Statement (Instr.memRd a) := fun _ => ⟨_, _, rfl⟩
theorem EncodeNonempty.memWr (a : Addr) (v : Byte) : EncodeNonempty.Statement (Instr.memWr a v) := fun _ => ⟨_, _, rfl⟩
theorem EncodeNonempty.ctrlRd : EncodeNonempty.Statement (Instr.ctrlRd) := fun _ => ⟨_, _, rfl⟩
theorem EncodeNonempty.ctrlWr (v : Byte) : EncodeNonempty.Statement (Instr.ctrlWr v) := fun _ => ⟨_, _, rfl⟩
theorem EncodeNonempty.psgDataRd : EncodeNonempty.Statement (Instr.psgDataRd) := fun _ => ⟨_, _, rfl⟩
theorem EncodeNonempty.psgDataWr (v : Byte) : EncodeNonempty.Statement (Instr.psgDataWr v) := fun _ => ⟨_, _, rfl⟩
theorem EncodeNonempty.psgAddrRd : EncodeNonempty.Statement (Instr.psgAddrRd) := fun _ => ⟨_, _, rfl⟩
theorem EncodeNonempty.psgAddrWr (v : Byte) : EncodeNonempty.Statement (Instr.psgAddrWr v) := fun _ => ⟨_, _, rfl⟩
theorem EncodeNonempty.hccaRd : EncodeNonempty.Statement (Instr.hccaRd) := fun _ => ⟨_, _, rfl⟩
theorem EncodeNonempty.hccaWr (v : Byte) : EncodeNonempty.Statement (Instr.hccaWr v) := fun _ => ⟨_, _, rfl⟩
theorem EncodeNonempty.kbdRd : EncodeNonempty.Statement (Instr.kbdRd) := fun _ => ⟨_, _, rfl⟩
theorem EncodeNonempty.kbdWr (v : Byte) : EncodeNonempty.Statement (Instr.kbdWr v) := fun _ => ⟨_, _, rfl⟩
theorem EncodeNonempty.vdpDataRd : EncodeNonempty.Statement (Instr.vdpDataRd) := fun _ => ⟨_, _, rfl⟩
theorem EncodeNonempty.vdpDataWr (v : Byte) : EncodeNonempty.Statement (Instr.vdpDataWr v) := fun _ => ⟨_, _, rfl⟩
theorem EncodeNonempty.vdpCtrlRd : EncodeNonempty.Statement (Instr.vdpCtrlRd) := fun _ => ⟨_, _, rfl⟩
theorem EncodeNonempty.vdpCtrlWr (v : Byte) : EncodeNonempty.Statement (Instr.vdpCtrlWr v) := fun _ => ⟨_, _, rfl⟩
theorem EncodeNonempty.parRd : EncodeNonempty.Statement (Instr.parRd) := fun _ => ⟨_, _, rfl⟩
theorem EncodeNonempty.parWr (v : Byte) : EncodeNonempty.Statement (Instr.parWr v) := fun _ => ⟨_, _, rfl⟩
theorem EncodeNonempty.fdcStatusRd : EncodeNonempty.Statement (Instr.fdcStatusRd) := fun _ => ⟨_, _, rfl⟩
theorem EncodeNonempty.fdcCmdWr (c : Byte) : EncodeNonempty.Statement (Instr.fdcCmdWr c) := fun _ => ⟨_, _, rfl⟩
theorem EncodeNonempty.fdcTrackRd : EncodeNonempty.Statement (Instr.fdcTrackRd) := fun _ => ⟨_, _, rfl⟩
theorem EncodeNonempty.fdcTrackWr (v : Byte) : EncodeNonempty.Statement (Instr.fdcTrackWr v) := fun _ => ⟨_, _, rfl⟩
theorem EncodeNonempty.fdcSectorRd : EncodeNonempty.Statement (Instr.fdcSectorRd) := fun _ => ⟨_, _, rfl⟩
theorem EncodeNonempty.fdcSectorWr (v : Byte) : EncodeNonempty.Statement (Instr.fdcSectorWr v) := fun _ => ⟨_, _, rfl⟩
theorem EncodeNonempty.fdcDataRd : EncodeNonempty.Statement (Instr.fdcDataRd) := fun _ => ⟨_, _, rfl⟩
theorem EncodeNonempty.fdcDataWr (v : Byte) : EncodeNonempty.Statement (Instr.fdcDataWr v) := fun _ => ⟨_, _, rfl⟩
theorem EncodeNonempty.fdcSelRd : EncodeNonempty.Statement (Instr.fdcSelRd) := fun _ => ⟨_, _, rfl⟩
theorem EncodeNonempty.fdcSelWr (v : Byte) : EncodeNonempty.Statement (Instr.fdcSelWr v) := fun _ => ⟨_, _, rfl⟩
theorem EncodeNonempty.unmappedRd (p : Port) : EncodeNonempty.Statement (Instr.unmappedRd p) := fun _ => ⟨_, _, rfl⟩
theorem EncodeNonempty.unmappedWr (p : Port) (v : Byte) : EncodeNonempty.Statement (Instr.unmappedWr p v) := fun _ => ⟨_, _, rfl⟩
theorem EncodeNonempty.strobeEdge (old new : Byte) : EncodeNonempty.Statement (Instr.strobeEdge old new) := fun _ => ⟨_, _, rfl⟩
theorem EncodeNonempty.fdcRestore (c : Byte) : EncodeNonempty.Statement (Instr.fdcRestore c) := fun _ => ⟨_, _, rfl⟩
theorem EncodeNonempty.fdcOther (c : Byte) : EncodeNonempty.Statement (Instr.fdcOther c) := fun _ => ⟨_, _, rfl⟩
theorem EncodeNonempty.fdcReadSector (c : Byte) : EncodeNonempty.Statement (Instr.fdcReadSector c) := fun _ => ⟨_, _, rfl⟩
theorem EncodeNonempty.fdcStatus (c : Byte) : EncodeNonempty.Statement (Instr.fdcStatus c) := fun _ => ⟨_, _, rfl⟩
theorem EncodeNonempty.fdcIrqAck (c : Byte) : EncodeNonempty.Statement (Instr.fdcIrqAck c) := fun _ => ⟨_, _, rfl⟩
theorem EncodeNonempty.fdcDiag (c : Byte) : EncodeNonempty.Statement (Instr.fdcDiag c) := fun _ => ⟨_, _, rfl⟩
theorem EncodeNonempty.recompute : EncodeNonempty.Statement (Instr.recompute) := fun _ => ⟨_, _, rfl⟩
theorem EncodeNonempty.maskWrite (v : Byte) : EncodeNonempty.Statement (Instr.maskWrite v) := fun _ => ⟨_, _, rfl⟩
theorem EncodeNonempty.flagSet (f : Flag) : EncodeNonempty.Statement (Instr.flagSet f) := fun _ => ⟨_, _, rfl⟩
theorem EncodeNonempty.flagClear (f : Flag) : EncodeNonempty.Statement (Instr.flagClear f) := fun _ => ⟨_, _, rfl⟩
theorem EncodeNonempty.enterIdle : EncodeNonempty.Statement (Instr.enterIdle) := fun _ => ⟨_, _, rfl⟩
theorem EncodeNonempty.loadStream (bytes : List Byte) : EncodeNonempty.Statement (Instr.loadStream bytes) := fun _ => ⟨_, _, rfl⟩
theorem EncodeNonempty.indexActive : EncodeNonempty.Statement (Instr.indexActive) := fun _ => ⟨_, _, rfl⟩
theorem EncodeNonempty.fdcTick : EncodeNonempty.Statement (Instr.fdcTick) := fun _ => ⟨_, _, rfl⟩
theorem EncodeNonempty.slice : EncodeNonempty.Statement (Instr.slice) := fun _ => ⟨_, _, rfl⟩
theorem EncodeNonempty.cpuPhase : EncodeNonempty.Statement (Instr.cpuPhase) := fun _ => ⟨_, _, rfl⟩
theorem EncodeNonempty.housekeeping : EncodeNonempty.Statement (Instr.housekeeping) := fun _ => ⟨_, _, rfl⟩
theorem EncodeNonempty.rxPoll : EncodeNonempty.Statement (Instr.rxPoll) := fun _ => ⟨_, _, rfl⟩
theorem EncodeNonempty.keyPromote : EncodeNonempty.Statement (Instr.keyPromote) := fun _ => ⟨_, _, rfl⟩
theorem EncodeNonempty.watchdog : EncodeNonempty.Statement (Instr.watchdog) := fun _ => ⟨_, _, rfl⟩
theorem EncodeNonempty.sliceIncrement : EncodeNonempty.Statement (Instr.sliceIncrement) := fun _ => ⟨_, _, rfl⟩
theorem EncodeNonempty.renderCheck : EncodeNonempty.Statement (Instr.renderCheck) := fun _ => ⟨_, _, rfl⟩
theorem EncodeNonempty.frameCheck : EncodeNonempty.Statement (Instr.frameCheck) := fun _ => ⟨_, _, rfl⟩
theorem EncodeNonempty.boundaryAdvance : EncodeNonempty.Statement (Instr.boundaryAdvance) := fun _ => ⟨_, _, rfl⟩
theorem EncodeNonempty.stopCheck : EncodeNonempty.Statement (Instr.stopCheck) := fun _ => ⟨_, _, rfl⟩
theorem EncodeNonempty.run : EncodeNonempty.Statement (Instr.run) := fun _ => ⟨_, _, rfl⟩
theorem EncodeNonempty.reset : EncodeNonempty.Statement (Instr.reset) := fun _ => ⟨_, _, rfl⟩
theorem EncodeNonempty.romLoad (img : RawImage) : EncodeNonempty.Statement (Instr.romLoad img) := fun _ => ⟨_, _, rfl⟩
theorem EncodeNonempty.insert (d : Byte) (img : Option RawImage) : EncodeNonempty.Statement (Instr.insert d img) := by
  intro p
  cases img <;> exact ⟨_, _, rfl⟩
theorem EncodeNonempty.eject (d : Byte) : EncodeNonempty.Statement (Instr.eject d) := fun _ => ⟨_, _, rfl⟩
theorem EncodeNonempty.keyPush (b : Byte) : EncodeNonempty.Statement (Instr.keyPush b) := fun _ => ⟨_, _, rfl⟩
theorem EncodeNonempty.txe (v : Bool) : EncodeNonempty.Statement (Instr.txe v) := fun _ => ⟨_, _, rfl⟩
theorem EncodeNonempty.stop : EncodeNonempty.Statement (Instr.stop) := fun _ => ⟨_, _, rfl⟩

end Sys2Proof.Laws
end

