-- ==== Sys2Proof/Tests/Slice0.lean ====
section
/-! SUPPORT. The model's own tests: the ill-formed operations WellFormed refuses, a word written out for every
operation, single operations against the spec's vectors (95_test_vectors.md, named in each docstring), and a witness
for every statement with hypotheses. Expected results are the spec's, or computed by hand from it. -/

namespace Sys2Proof.Tests

open Sys2Proof Sys2Proof.Machine

/-! ### Test bindings (95_test_vectors.md section 0) -/

/-- The parameter values of the spec's vectors; P_RATE_CODE and P_SYNC_PATTERN are symbols there. -/
def bindings : Params := { defaultParams with
  rateCode := 0x11
  syncPattern := List.replicate 37 0x4E ++ [0xA5]
  indexPeriod := 3
  cyclesPerSlice := 10
  slicesPerFrame := 4
  visibleFirst := 1
  visibleCount := 2
  watchdogSlices := 3
  keepaliveCode := 0x95
  sinkAttached := true }

/-- The reset state under those values. -/
def base : State := { State.reset with params := bindings, nextBoundary := 10 }

/-- A loaded 4096-byte ROM, with bytes also above its size. -/
def romState : State := { base with rom := [(0x10, 0xD0), (0xFFF, 0x3F), (0x1000, 0x77)], romSize := .kib4 }

/-- IMG200 of the vectors at the offsets the tests read: IMG[i] = i mod 251. -/
def img200 : Image := ⟨.ss200, [(1, 0x01), (2, 0x02), (5120, 0x64), (5121, 0x65), (203776, 0xD7)]⟩

/-- The start of the floppy vectors: IMG200 in drive 0, drive 1 empty, rotation count 1, sector 1. -/
def diskState : State := { base with drive0 := some img200, fdc := { Fdc.reset with rot := 1, sector := 1 } }

/-- A stream of 6 bytes from drive 0 with `c` of them read. -/
def streamState (c : Nat) : State := { base with
  drive0 := some img200
  fdc := { Fdc.reset with
    mode := .streamingRead
    status := 0x03
    buf := [(0, 0x0A), (5, 0x0F)]
    len := 6
    cursor := c
    streamDrive := some .d0 } }

/-- The keyboard vector's state: two bytes queued, `key` set. -/
def keyState : State := { base with kq := [(0, 0x41), (1, 0x42)], kqWr := 2, key := true }

/-- A field of the next state. -/
def after {α : Type} (r : Result) (f : State → α) : Option α :=
  match r with
  | .next s => some (f s)
  | _ => none

/-- The byte an operation returned last. -/
def lastReply (s : State) : Option Byte := (replies s.trace).head?

/-- The refusal an outcome is. -/
def refusalOf (r : Result) : Option Refusal :=
  match r with
  | .refused e => some e
  | _ => none

/-! ### Parameters, memory, reset -/

theorem test_bindings_well_formed : paramsOk bindings = true := by decide
theorem test_default_params_well_formed : paramsOk defaultParams = true := by decide
/-- R90, D49: a map that gives one port two handlers is ill-formed. -/
theorem test_double_port_ill_formed : paramsOk { bindings with portMap := [(0x40, .ctrl), (0x40, .par)] } = false := by
  decide
/-- D5: two fields of the control register on one bit are ill-formed. -/
theorem test_shared_bit_ill_formed : paramsOk { bindings with ctrlBits := ⟨0, 0, 3, 4, 5⟩ } = false := by decide
/-- R8: a period of 0 is ill-formed. -/
theorem test_zero_period_ill_formed : paramsOk { bindings with indexPeriod := 0 } = false := by decide
/-- R98: the pattern has 38 bytes. -/
theorem test_pattern_length_ill_formed : paramsOk { bindings with syncPattern := [0x4E] } = false := by decide
theorem test_reset_memory_wf : Memory.wf State.reset.ram = true := by decide
theorem test_write_keeps_order : Memory.write [(3, 1), (9, 2)] 5 7 = [(3, 1), (5, 7), (9, 2)] := by decide
theorem test_write_blank_removes : Memory.write [(3, 1), (9, 2)] 3 0 = [(9, 2)] := by decide
theorem test_unsorted_not_wf : Memory.wf [(9, 2), (3, 1)] = false := by decide

/-! ### WellFormed refuses -/

theorem test_wf_handler_unmapped : (Instr.ctrlWr 1).wellFormed { bindings with portMap := [(0x40, .psgData)] } = false := by
  decide
theorem test_wf_read_handler_unmapped : Instr.kbdRd.wellFormed { bindings with portMap := [] } = false := by decide
theorem test_wf_port_is_mapped : (Instr.unmappedRd 0xC0).wellFormed bindings = false := by decide
theorem test_wf_write_port_is_mapped : (Instr.unmappedWr 0x90 0).wellFormed bindings = false := by decide
theorem test_wf_class_restore : (Instr.fdcRestore 0x80).wellFormed bindings = false := by decide
theorem test_wf_class_other : (Instr.fdcOther 0xC0).wellFormed bindings = false := by decide
theorem test_wf_class_read_sector : (Instr.fdcReadSector 0x00).wellFormed bindings = false := by decide
theorem test_wf_class_status : (Instr.fdcStatus 0xD0).wellFormed bindings = false := by decide
theorem test_wf_class_ack : (Instr.fdcIrqAck 0xC0).wellFormed bindings = false := by decide
theorem test_wf_class_diag : (Instr.fdcDiag 0xF0).wellFormed bindings = false := by decide
theorem test_wf_stream_length : (Instr.loadStream [1, 2]).wellFormed bindings = false := by decide
theorem test_wf_rom_cell_outside : (Instr.romLoad ⟨4096, [(4096, 1)]⟩).wellFormed bindings = false := by decide
theorem test_wf_image_unsorted : (Instr.insert 0 (some ⟨204800, [(7, 1), (6, 1)]⟩)).wellFormed bindings = false := by
  decide

/-! ### Decode: a word for every operation (30_encoding.md R91, R96; kind bytes of log entry 1) -/

theorem test_decode_memory :
    decode bindings [0x01, 0x34, 0x12] = .ok (.memRd 0x1234, []) ∧
    decode bindings [0x02, 0x10, 0xFF, 0xAA] = .ok (.memWr 0xFF10 0xAA, []) := ⟨rfl, rfl⟩
theorem test_decode_control_and_parallel :
    decode bindings [0x03, 0x00] = .ok (.ctrlRd, []) ∧ decode bindings [0x04, 0x00, 0x05] = .ok (.ctrlWr 0x05, []) ∧
    decode bindings [0x03, 0xB0] = .ok (.parRd, []) ∧ decode bindings [0x04, 0xB0, 0x41] = .ok (.parWr 0x41, []) ∧
    decode bindings [0x06, 0x04, 0x00] = .ok (.strobeEdge 0x04 0x00, []) := ⟨rfl, rfl, rfl, rfl, rfl⟩
theorem test_decode_psg :
    decode bindings [0x03, 0x40] = .ok (.psgDataRd, []) ∧ decode bindings [0x04, 0x40, 0xF0] = .ok (.psgDataWr 0xF0, []) ∧
    decode bindings [0x03, 0x41] = .ok (.psgAddrRd, []) ∧ decode bindings [0x04, 0x41, 14] = .ok (.psgAddrWr 14, []) :=
  ⟨rfl, rfl, rfl, rfl⟩
theorem test_decode_modem_and_keyboard :
    decode bindings [0x03, 0x80] = .ok (.hccaRd, []) ∧ decode bindings [0x04, 0x80, 0x83] = .ok (.hccaWr 0x83, []) ∧
    decode bindings [0x03, 0x90] = .ok (.kbdRd, []) ∧ decode bindings [0x04, 0x90, 0x12] = .ok (.kbdWr 0x12, []) :=
  ⟨rfl, rfl, rfl, rfl⟩
theorem test_decode_vdp :
    decode bindings [0x03, 0xA0] = .ok (.vdpDataRd, []) ∧ decode bindings [0x04, 0xA0, 0x01] = .ok (.vdpDataWr 0x01, []) ∧
    decode bindings [0x03, 0xA1] = .ok (.vdpCtrlRd, []) ∧ decode bindings [0x04, 0xA1, 0x02] = .ok (.vdpCtrlWr 0x02, []) :=
  ⟨rfl, rfl, rfl, rfl⟩
theorem test_decode_floppy_ports :
    decode bindings [0x03, 0xC0] = .ok (.fdcStatusRd, []) ∧ decode bindings [0x04, 0xC0, 0x80] = .ok (.fdcCmdWr 0x80, []) ∧
    decode bindings [0x03, 0xC1] = .ok (.fdcTrackRd, []) ∧ decode bindings [0x04, 0xC1, 39] = .ok (.fdcTrackWr 39, []) ∧
    decode bindings [0x03, 0xC2] = .ok (.fdcSectorRd, []) ∧ decode bindings [0x04, 0xC2, 5] = .ok (.fdcSectorWr 5, []) ∧
    decode bindings [0x03, 0xC3] = .ok (.fdcDataRd, []) ∧ decode bindings [0x04, 0xC3, 0x5A] = .ok (.fdcDataWr 0x5A, []) ∧
    decode bindings [0x03, 0xCF] = .ok (.fdcSelRd, []) ∧ decode bindings [0x04, 0xCF, 1] = .ok (.fdcSelWr 1, []) :=
  ⟨rfl, rfl, rfl, rfl, rfl, rfl, rfl, rfl, rfl, rfl⟩
/-- V-BUS-5, V-BUS-6: ports next to a mapped port are unmapped. -/
theorem test_decode_unmapped :
    decode bindings [0x03, 0xC4] = .ok (.unmappedRd 0xC4, []) ∧
    decode bindings [0x04, 0x55, 0x12] = .ok (.unmappedWr 0x55 0x12, []) := ⟨rfl, rfl⟩
/-- V-FDC-15. -/
theorem test_decode_commands :
    decode bindings [0x05, 0x0A] = .ok (.fdcRestore 0x0A, []) ∧ decode bindings [0x05, 0x8F] = .ok (.fdcReadSector 0x8F, []) ∧
    decode bindings [0x05, 0x9C] = .ok (.fdcReadSector 0x9C, []) ∧ decode bindings [0x05, 0xCF] = .ok (.fdcStatus 0xCF, []) ∧
    decode bindings [0x05, 0xDF] = .ok (.fdcIrqAck 0xDF, []) ∧ decode bindings [0x05, 0xE4] = .ok (.fdcDiag 0xE4, []) :=
  ⟨rfl, rfl, rfl, rfl, rfl, rfl⟩
/-- V-FDC-15: the command bytes of class OTHER. -/
theorem test_decode_other_commands :
    decode bindings [0x05, 0x10] = .ok (.fdcOther 0x10, []) ∧ decode bindings [0x05, 0x20] = .ok (.fdcOther 0x20, []) ∧
    decode bindings [0x05, 0x7F] = .ok (.fdcOther 0x7F, []) ∧ decode bindings [0x05, 0xA0] = .ok (.fdcOther 0xA0, []) ∧
    decode bindings [0x05, 0xB5] = .ok (.fdcOther 0xB5, []) ∧ decode bindings [0x05, 0xF0] = .ok (.fdcOther 0xF0, []) :=
  ⟨rfl, rfl, rfl, rfl, rfl, rfl⟩
theorem test_decode_arbiter :
    decode bindings [0x10] = .ok (.recompute, []) ∧ decode bindings [0x11, 0x30] = .ok (.maskWrite 0x30, []) ∧
    decode bindings [0x12, 0] = .ok (.flagSet .rx, []) ∧ decode bindings [0x13, 3] = .ok (.flagClear .vblank, []) :=
  ⟨rfl, rfl, rfl, rfl⟩
theorem test_decode_floppy_internal :
    decode bindings [0x14] = .ok (.enterIdle, []) ∧
    decode bindings [0x15, 6, 0, 1, 2, 3, 4, 5, 6, 0x10] = .ok (.loadStream [1, 2, 3, 4, 5, 6], [0x10]) ∧
    decode bindings [0x16] = .ok (.indexActive, []) ∧ decode bindings [0x17] = .ok (.fdcTick, []) := ⟨rfl, rfl, rfl, rfl⟩
theorem test_decode_scheduler :
    decode bindings [0x18] = .ok (.slice, []) ∧ decode bindings [0x19] = .ok (.cpuPhase, []) ∧
    decode bindings [0x1A] = .ok (.housekeeping, []) ∧ decode bindings [0x1B] = .ok (.rxPoll, []) ∧
    decode bindings [0x1C] = .ok (.keyPromote, []) ∧ decode bindings [0x1D] = .ok (.watchdog, []) ∧
    decode bindings [0x1E] = .ok (.sliceIncrement, []) ∧ decode bindings [0x1F] = .ok (.renderCheck, []) ∧
    decode bindings [0x20] = .ok (.frameCheck, []) ∧ decode bindings [0x21] = .ok (.boundaryAdvance, []) ∧
    decode bindings [0x22] = .ok (.stopCheck, []) ∧ decode bindings [0x23] = .ok (.run, []) :=
  ⟨rfl, rfl, rfl, rfl, rfl, rfl, rfl, rfl, rfl, rfl, rfl, rfl⟩
theorem test_decode_host :
    decode bindings [0x30] = .ok (.reset, []) ∧
    decode bindings [0x31, 0, 0x10, 0, 0, 1, 0, 0, 0, 2, 0, 0, 0, 0xC3] = .ok (.romLoad ⟨4096, [(2, 0xC3)]⟩, []) ∧
    decode bindings [0x32, 1, 0] = .ok (.insert 1 none, []) ∧
    decode bindings [0x32, 0, 1, 0x00, 0x20, 0x03, 0, 0, 0, 0, 0] = .ok (.insert 0 (some ⟨204800, []⟩), []) ∧
    decode bindings [0x33, 1] = .ok (.eject 1, []) ∧ decode bindings [0x34, 0x20] = .ok (.keyPush 0x20, []) ∧
    decode bindings [0x35, 1] = .ok (.txe true, []) ∧ decode bindings [0x36] = .ok (.stop, []) :=
  ⟨rfl, rfl, rfl, rfl, rfl, rfl, rfl, rfl⟩
/-- What is no operation is rejected by name. -/
theorem test_decode_rejects :
    decode bindings [] = .error .empty ∧ decode bindings [0x07] = .error (.unknownKind 0x07) ∧
    decode bindings [0x02, 0x10, 0x00] = .error .truncated ∧ decode bindings [0x12, 4] = .error (.noSuchFlag 4) ∧
    decode bindings [0x35, 2] = .error (.notABool 2) ∧ decode bindings [0x32, 0, 2] = .error (.notAPresence 2) ∧
    decode bindings [0x15, 7, 0] = .error (.badStreamLength 7) ∧
    decode bindings [0x31, 0, 0x10, 0, 0, 1, 0, 0, 0, 0, 0x10, 0, 0, 9] = .error .badImage :=
  ⟨rfl, rfl, rfl, rfl, rfl, rfl, rfl, rfl⟩
theorem test_decode_table_words :
    decodeTableWord 8 0x40 = some .psgDataRd ∧ decodeTableWord 8 0x9C = some (.fdcReadSector 0x9C) ∧
    decodeTableWord 16 0x1234 = some (.memRd 0x1234) := ⟨rfl, rfl, rfl⟩

/-! ### The Interrupt Arbiter -/

/-- V-IA-1, the last row, and V-IA-6: all four flags. -/
theorem test_encoder_priority :
    portb { base with rx := true, tx := true, key := true, vblank := true, mask := 0xF0 } = 0x0F ∧
    portb { base with rx := true, tx := true, key := true, vblank := true, mask := 0x30 } = 0x0B := by decide
/-- V-IA-2: masks 0x10 and 0x0F. -/
theorem test_encoder_masks :
    portb { base with rx := true, vblank := true, mask := 0x10 } = 0x09 ∧
    portb { base with rx := true, vblank := true, mask := 0x0F } = 0x00 := by decide
/-- R137's example. -/
theorem test_mask_write :
    after (exec (.maskWrite 0x30) { base with key := true, vblank := true }) (fun t => (active t, vector t, portb t)) =
      some (true, 5, 0x0B) := by decide
/-- R138's example: from vblank alone, rx outranks it. -/
theorem test_flag_set :
    after (exec (.flagSet .rx) { base with vblank := true, mask := 0xF0 }) (fun t => (portb t, lastLine t.trace)) =
      some (0x0F, true, 7) := by decide
theorem test_flag_clear :
    after (exec (.flagClear .rx) { base with rx := true, vblank := true, mask := 0xF0 }) portb = some 0x09 := by decide
/-- R136's example. -/
theorem test_recompute :
    after (exec .recompute { base with rx := true, mask := 0x80 }) (·.trace) =
      some [.psgPortB 0x0F, .irqLine true 7] := by decide
/-- V-IA-5. -/
theorem test_txe :
    after (exec (.txe true) { base with mask := 0x40 }) (fun t => (t.tx, lastLine t.trace)) = some (true, true, 6) := by
  decide
theorem test_txe_clears :
    after (exec (.txe false) { base with mask := 0x40, tx := true }) (fun t => lastLine t.trace) = some (false, 0) := by
  decide

/-! ### The Bus Dispatcher -/

/-- V-BUS-1. -/
theorem test_mem_read_rom : after (exec (.memRd 0x0FFF) romState) lastReply = some (some 0x3F) := by decide
theorem test_mem_read_above_rom :
    after (exec (.memRd 0x1000) { romState with ram := [(0x1000, 0x22)] }) lastReply = some (some 0x22) := by decide
/-- V-BUS-3, V-BUS-4. -/
theorem test_mem_write_under_rom : after (exec (.memWr 0x0010 0xAA) romState) (·.ram) = some [(0x10, 0xAA)] := by decide
theorem test_mem_write_top : after (exec (.memWr 0xFFFF 1) base) (·.ram) = some [(0xFFFF, 1)] := by decide
/-- V-BUS-5. -/
theorem test_write_only_reads :
    after (exec .ctrlRd base) lastReply = some (some 0xFF) ∧ after (exec .psgAddrRd base) lastReply = some (some 0xFF) ∧
    after (exec .parRd base) lastReply = some (some 0xFF) ∧ after (exec .fdcSelRd base) lastReply = some (some 0xFF) := by
  decide
theorem test_unmapped_read :
    after (exec (.unmappedRd 0xC4) base) (·.trace) = some [.reply 0xFF, .diag (.unmappedRead 0xC4)] := by decide
/-- V-BUS-6. -/
theorem test_unmapped_write :
    exec (.unmappedWr 0x55 0x12) base = .next { base with trace := [.diag (.unmappedWrite 0x55)] } := rfl
/-- V-BUS-9. -/
theorem test_ctrl_write_strobe :
    after (exec (.ctrlWr 0x01) { base with ctrl := 0x05, parLatch := 0x41 }) (fun t => (t.ctrl, t.trace)) =
      some (0x01, [.sinkByte 0x41]) := by decide
/-- V-BUS-8. -/
theorem test_ctrl_write_no_sink :
    after (exec (.ctrlWr 0x00) { base with ctrl := 0x04, params := { bindings with sinkAttached := false } }) (·.trace) =
      some [] := by decide
/-- V-BUS-7: a rising edge emits nothing. -/
theorem test_strobe_rising : after (exec (.strobeEdge 0x00 0x04) base) (·.trace) = some [] := by decide
theorem test_par_write : after (exec (.parWr 0x55) base) (fun t => (t.parLatch, t.trace)) = some (0x55, []) := by decide
/-- V-BUS-13. -/
theorem test_psg_address_range :
    after (exec (.psgAddrWr 16) { base with psgLatch := 14 }) (·.psgLatch) = some 14 ∧
    after (exec (.psgAddrWr 15) base) (·.psgLatch) = some 15 := by decide
/-- V-BUS-11. -/
theorem test_psg_mask_write :
    after (exec (.psgDataWr 0xF0) { base with psgLatch := 14 }) (fun t => (t.mask, t.trace.head?)) =
      some (0xF0, some (.psgWrite 14 0xF0)) := by decide
/-- V-BUS-12. -/
theorem test_psg_port_b_read :
    after (exec .psgDataRd { base with psgLatch := 15, rx := true, mask := 0x80 }) lastReply = some (some 0x0F) := by
  decide
/-- V-BUS-14. -/
theorem test_psg_other_read :
    after (exec .psgDataRd { base with psgLatch := 3, answers := ⟨[0x5C], [], [], 0⟩ }) lastReply = some (some 0x5C) := by
  decide
/-- V-BUS-15. -/
theorem test_hcca_read :
    after (exec .hccaRd { base with rx := true, mask := 0x80, answers := ⟨[0x83, 0x84], [], [], 0⟩ })
      (fun t => (t.rx, lastReply t, lastLine t.trace, t.answers.bytes)) =
      some (false, some 0x83, (false, 0), [0x84]) := by decide
theorem test_hcca_write : after (exec (.hccaWr 0x83) base) (fun t => (t.tx, t.trace)) = some (false, [.modemWrite 0x83]) := by
  decide
/-- V-BUS-16. -/
theorem test_keyboard_read :
    after (exec .kbdRd keyState) (fun t => (lastReply t, t.kqRd, t.kqWr, t.key)) = some (some 0x41, 1, 2, false) := by
  decide
theorem test_keyboard_write : after (exec (.kbdWr 0x12) base) (·.trace) = some [.diag (.keyboardWrite 0x12)] := by decide
/-- V-IA-7. -/
theorem test_vdp_status_read :
    after (exec .vdpCtrlRd { base with vblank := true, mask := 0x10, answers := ⟨[0x9F], [], [], 0⟩ })
      (fun t => (t.vblank, lastReply t, lastLine t.trace)) = some (false, some 0x9F, false, 0) := by decide
/-- V-BUS-17. -/
theorem test_vdp_forwards :
    after (exec .vdpDataRd { base with answers := ⟨[0x33], [], [], 0⟩ }) lastReply = some (some 0x33) ∧
    after (exec (.vdpDataWr 1) base) (·.trace) = some [.vdpDataWrite 1] ∧
    after (exec (.vdpCtrlWr 2) base) (·.trace) = some [.vdpControlWrite 2] := by decide

/-! ### The Floppy Controller -/

/-- V-FDC-17: INDEX in Idle, with and without a disk in the selected drive. -/
theorem test_status_read_index :
    after (exec .fdcStatusRd { diskState with fdc := { Fdc.reset with rot := 0 } }) lastReply = some (some 0x02) ∧
    after (exec .fdcStatusRd { diskState with fdc := { Fdc.reset with rot := 0, driveSelect := 7 } }) lastReply =
      some (some 0x00) := by decide
theorem test_status_read_streaming : after (exec .fdcStatusRd (streamState 0)) lastReply = some (some 0x03) := by decide
/-- V-FDC-19. -/
theorem test_track_sector_registers :
    after (exec (.fdcTrackWr 0xFE) base) (·.fdc.track) = some 0xFE ∧
    after (exec .fdcTrackRd { base with fdc := { Fdc.reset with track := 0xFE } }) lastReply = some (some 0xFE) ∧
    after (exec (.fdcSectorWr 9) base) (·.fdc.sector) = some 9 ∧
    after (exec .fdcSectorRd { base with fdc := { Fdc.reset with sector := 9 } }) lastReply = some (some 9) := by decide
/-- V-FDC-16. -/
theorem test_data_register_idle :
    after (exec (.fdcDataWr 0x5A) base) (·.fdc.data) = some 0x5A ∧
    after (exec .fdcDataRd { base with fdc := { Fdc.reset with data := 0x5A } }) lastReply = some (some 0x5A) := by decide
/-- V-FDC-11: the last byte of a stream. -/
theorem test_data_read_drains :
    after (exec .fdcDataRd (streamState 5)) (fun t => (lastReply t, t.fdc.mode, t.fdc.status, t.fdc.streamDrive)) =
      some (some 0x0F, .idle, 0x00, none) := by decide
theorem test_data_read_advances :
    after (exec .fdcDataRd (streamState 0)) (fun t => (lastReply t, t.fdc.mode, t.fdc.status, t.fdc.cursor)) =
      some (some 0x0A, .streamingRead, 0x03, 1) := by decide
/-- V-FDC-5's select. -/
theorem test_select_write : after (exec (.fdcSelWr 2) base) (·.fdc.driveSelect) = some 2 := by decide
/-- V-FDC-2: track 1, sector 1 loads from offset 5120. -/
theorem test_read_sector :
    after (exec (.fdcReadSector 0x80) { diskState with fdc := { diskState.fdc with track := 1 } })
      (fun t => (t.fdc.status, t.fdc.len, t.fdc.cursor, t.fdc.streamDrive, Memory.read t.fdc.buf 0,
        Memory.read t.fdc.buf 1)) = some (0x03, 1024, 0, some .d0, 0x64, 0x65) := by decide
/-- V-FDC-7: the last sector of the image, and the one after it. -/
theorem test_read_sector_extent :
    after (exec (.fdcReadSector 0x80) { diskState with fdc := { diskState.fdc with track := 39, sector := 5 } })
      (fun t => (t.fdc.status, Memory.read t.fdc.buf 0)) = some (0x03, 0xD7) ∧
    after (exec (.fdcReadSector 0x80) { diskState with fdc := { diskState.fdc with track := 40 } })
      (fun t => (t.fdc.status, t.fdc.mode)) = some (0x10, .idle) := by decide
/-- V-FDC-9. -/
theorem test_restore :
    after (exec (.fdcRestore 0x00) { base with fdc := { Fdc.reset with track := 7, status := 0x90 } })
      (fun t => (t.fdc.track, t.fdc.status)) = some (0, 0x10) := by decide
/-- V-FDC-10: mid-stream. -/
theorem test_restore_aborts :
    after (exec (.fdcRestore 0x03) (streamState 2)) (fun t => (t.fdc.mode, t.fdc.status)) = some (.idle, 0x00) := by decide
/-- V-FDC-11: the status block. -/
theorem test_status_command :
    after (exec (.fdcStatus 0xC0) { base with fdc := { Fdc.reset with track := 2, sector := 3 } })
      (fun t => (t.fdc.status, t.fdc.len, t.fdc.buf)) = some (0x03, 6, [(0, 2), (2, 3), (3, 0x11)]) := by decide
/-- V-FDC-13. -/
theorem test_diag_command :
    after (exec (.fdcDiag 0xE0) base) (fun t => (t.fdc.status, t.fdc.len, Memory.read t.fdc.buf 37)) =
      some (0x03, 38, 0xA5) := by decide
/-- V-FDC-14. -/
theorem test_irq_ack :
    after (exec (.fdcIrqAck 0xD0) (streamState 1)) (fun t => (t.fdc.mode, t.fdc.status)) =
      some (.streamingRead, 0x02) := by decide
/-- V-FDC-15: a command of class OTHER changes nothing. -/
theorem test_other_command :
    after (exec (.fdcOther 0x10) (streamState 1)) (fun t => (t.fdc, t.trace)) =
      some ((streamState 1).fdc, [.diag (.unknownCommand 0x10)]) := by decide
/-- R221: the command write decodes the byte. -/
theorem test_command_write : after (exec (.fdcCmdWr 0x80) diskState) (·.fdc.mode) = some .streamingRead := by decide
theorem test_enter_idle :
    after (exec .enterIdle (streamState 3)) (fun t => (t.fdc.mode, t.fdc.status, t.fdc.cursor)) = some (.idle, 0, 3) := by
  decide
theorem test_load_stream :
    after (exec (.loadStream [9, 8, 7, 6, 5, 4]) { base with fdc := { Fdc.reset with buf := [(5, 1), (6, 2)] } })
      (fun t => (t.fdc.buf, t.fdc.len)) = some ([(0, 9), (1, 8), (2, 7), (3, 6), (4, 5), (5, 4), (6, 2)], 6) := by decide
theorem test_index_active : after (exec .indexActive diskState) (·.trace) = some [.replyBool false] := by decide
/-- V-FDC-18. -/
theorem test_fdc_tick : after (exec .fdcTick { base with fdc := { Fdc.reset with rot := 2 } }) (·.fdc.rot) = some 0 := by
  decide

/-! ### Host actions -/

/-- V-MED-1, V-MED-2, V-MED-3. -/
theorem test_insert_refusals :
    refusalOf (exec (.insert 0 (some ⟨204801, []⟩)) base) = some (.configError .imageSize) ∧
    refusalOf (exec (.insert 0 none) base) = some (.configError .missingFile) ∧
    refusalOf (exec (.insert 2 (some ⟨204800, []⟩)) base) = some (.configError .noSuchDrive) ∧
    refusalOf (exec (.insert 0 (some ⟨409600, []⟩)) diskState) = some (.configError .driveOccupied) := by decide
theorem test_insert :
    after (exec (.insert 1 (some ⟨819200, [(5, 1)]⟩)) diskState) (·.drive1) = some (some ⟨.ds800, [(5, 1)]⟩) := by decide
/-- V-MED-5. -/
theorem test_eject_mid_stream :
    after (exec (.eject 0) (streamState 3)) (fun t => (t.fdc.mode, t.fdc.status, t.drive0)) = some (.idle, 0, none) := by
  decide
/-- V-MED-4. -/
theorem test_eject_empty :
    after (exec (.eject 1) base) (·.trace) = some [.diag (.driveEmpty .d1)] ∧
    refusalOf (exec (.eject 3) base) = some (.configError .noSuchDrive) := by decide
/-- V-MED-7. -/
theorem test_rom_load :
    after (exec (.romLoad ⟨8192, [(2, 0xC3)]⟩) base) (fun t => (t.rom, t.romSize)) = some ([(2, 0xC3)], .kib8) ∧
    refusalOf (exec (.romLoad ⟨4097, []⟩) base) = some (.configError .romSize) := by decide
/-- R40: the write index wraps. -/
theorem test_key_push :
    after (exec (.keyPush 0x20) { base with kqRd := 0xFF, kqWr := 0xFF }) (fun t => (t.kq, t.kqWr, t.key)) =
      some ([(0xFF, 0x20)], 0, false) := by decide
theorem test_stop : after (exec .stop base) (·.stop) = some true := by decide
theorem test_reset :
    after (exec .reset { keyState with mask := 0xFF, cycles := 77 }) (fun t => (t.kqWr, t.key, t.mask, t.cycles)) =
      some (0, false, 0, 0) := by decide

/-! ### The Scheduler -/

/-- Steps of the vectors' CPU stub: each costs `c + 1` cycles and makes no access. -/
def stub (c : Nat) : List CpuStep := List.replicate 3 ⟨[], c⟩

/-- V-SCH-1, slice 1: three steps of 4 cycles. -/
theorem test_slice :
    after (exec .slice { base with answers := ⟨[], [false, true], stub 3, 0⟩ })
      (fun t => (t.cycles, t.fdc.rot, t.kbdIdle, t.slice, t.nextBoundary, t.vblank)) =
      some (12, 1, 1, 1, 20, false) := by decide
/-- V-SCH-1, slice 4: the frame ends, `key` is promoted, `vblank` set. -/
theorem test_slice_frame_end :
    after (exec .slice { base with
        slice := 3, nextBoundary := 40, cycles := 32, kq := [(0, 0x95)], kqWr := 1
        answers := ⟨[], [false, true], stub 3, 0⟩ })
      (fun t => (t.cycles, t.kbdIdle, t.key, t.slice, t.vblank, t.nextBoundary)) =
      some (40, 0, true, 0, true, 50) := by decide
/-- V-SCH-2: step cost 7. -/
theorem test_cpu_phase :
    after (exec .cpuPhase { base with answers := ⟨[], [], stub 6, 0⟩ }) (·.cycles) = some 14 := by decide
/-- V-SCH-3: a key pushed inside the CPU phase; an access of the same step reads RAM. -/
theorem test_cpu_phase_accesses :
    after (exec .cpuPhase { base with
        answers := ⟨[], [], [⟨[.host (.keyPush 0x20), .bus (.memWrite 0x8000 7), .bus (.portWrite 0xC1 5)], 9⟩], 0⟩ })
      (fun t => (t.kq, t.kqWr, t.ram, t.fdc.track, t.cycles)) = some ([(0, 0x20)], 1, [(0x8000, 7)], 5, 10) := by decide
/-- V-SCH-1, slice 3: the watchdog injects. -/
theorem test_housekeeping :
    after (exec .housekeeping { base with kbdIdle := 2, fdc := { Fdc.reset with rot := 2 }, answers := ⟨[], [false], [], 0⟩ })
      (fun t => (t.kq, t.kqWr, t.kbdIdle, t.key, t.fdc.rot)) = some ([(0, 0x95)], 1, 0, false, 0) := by decide
/-- R266's example. -/
theorem test_rx_poll :
    after (exec .rxPoll { base with mask := 0x80, answers := ⟨[], [true], [], 0⟩ }) (fun t => lastLine t.trace) =
      some (true, 7) := by decide
theorem test_key_promote :
    after (exec .keyPromote { keyState with key := false }) (·.key) = some true ∧
    after (exec .keyPromote base) (·.key) = some false := by decide
/-- V-SCH-4. -/
theorem test_watchdog_every_slice :
    after (exec .watchdog { base with params := { bindings with watchdogSlices := 1 } }) (fun t => (t.kqWr, t.kbdIdle)) =
      some (1, 0) := by decide
theorem test_watchdog_non_empty : after (exec .watchdog { keyState with kbdIdle := 2 }) (·.kbdIdle) = some 0 := by decide
theorem test_slice_increment : after (exec .sliceIncrement base) (·.slice) = some 1 := by decide
/-- V-SCH-1: rows 1 and 2 are rendered, 3 is not. -/
theorem test_render_check :
    after (exec .renderCheck { base with slice := 2 }) (·.trace) = some [.renderRow 2] ∧
    after (exec .renderCheck { base with slice := 3 }) (·.trace) = some [] := by decide
/-- V-SCH-5. -/
theorem test_frame_check :
    after (exec .frameCheck { base with slice := 4, answers := ⟨[], [false], [], 0⟩ }) (fun t => (t.slice, t.vblank)) =
      some (0, false) := by decide
theorem test_boundary_advance : after (exec .boundaryAdvance base) (·.nextBoundary) = some 20 := by decide
/-- V-SCH-6. -/
theorem test_stop_check : after (exec .stopCheck { base with stop := true }) (·.runState) = some .ended := by decide
theorem test_run :
    after (exec .run { romState with answers := ⟨[], [false], stub 3, 0⟩ }) (fun t => (t.runState, t.cycles)) =
      some (.running, 12) ∧
    refusalOf (exec .run base) = some (.configError .noRom) := by decide

/-! ### The step -/

/-- A pending bus cycle is run and taken from the input. -/
theorem test_step_runs_pending :
    after (step { base with input := [0x02, 0x10, 0x00, 0xAA, 0x10] }) (fun t => (t.ram, t.input)) =
      some ([(0x10, 0xAA)], [0x10]) := by decide
theorem test_step_from_reset : after (step (State.reset.withFetchWord 8 0x90)) (·.key) = some false := by decide
theorem test_step_idle : after (step base) (·.runState) = some .notStarted := by decide

/-! ### A witness for every statement with hypotheses -/

theorem witness_MemWriteTargetsRam : Memory.wf romState.ram = true := by decide
theorem witness_RomShadowsWrittenRam :
    Memory.wf romState.ram = true ∧ romState.ctrl.getLsbD romState.params.ctrlBits.romdis.val = false ∧
    (0x0FFF#16).toNat < romBytes romState.romSize ∧ (0x01#8).getLsbD romState.params.ctrlBits.romdis.val = true ∧
    (0x00#8).getLsbD romState.params.ctrlBits.romdis.val = false := by decide
theorem witness_EncoderPicksHighestRequest :
    active { base with key := true, mask := 0x20 } = true ∧ active base = false := by decide
theorem witness_TxChangesOnlyByHostEvent :
    ∃ t, exec .recompute base = .next t ∧ (∀ v, Instr.recompute ≠ .txe v) ∧ Instr.recompute ≠ .flagSet .tx ∧
      Instr.recompute ≠ .flagClear .tx ∧ Instr.recompute ≠ .reset ∧ Instr.recompute ≠ .cpuPhase ∧
      Instr.recompute ≠ .slice ∧ Instr.recompute ≠ .run :=
  ⟨_, rfl, by simp, by decide, by decide, by decide, by decide, by decide, by decide⟩
theorem witness_FlagsChangeOnlyOnTheirPaths :
    (∃ s t, exec .rxPoll s = .next t ∧ s.rx = false ∧ t.rx = true) ∧
    (∃ s t, exec .hccaRd s = .next t ∧ s.rx = true ∧ t.rx = false) ∧
    (∃ s t, exec .keyPromote s = .next t ∧ s.key = false ∧ t.key = true) ∧
    (∃ s t, exec .kbdRd s = .next t ∧ s.key = true ∧ t.key = false) ∧
    (∃ s t, exec .frameCheck s = .next t ∧ s.vblank = false ∧ t.vblank = true) ∧
    (∃ s t, exec .vdpCtrlRd s = .next t ∧ s.vblank = true ∧ t.vblank = false) :=
  ⟨⟨{ base with answers := ⟨[], [true], [], 0⟩ }, _, rfl, by decide, by decide⟩,
   ⟨{ base with rx := true }, _, rfl, by decide, by decide⟩,
   ⟨{ keyState with key := false }, _, rfl, by decide, by decide⟩,
   ⟨keyState, _, rfl, by decide, by decide⟩,
   ⟨{ base with slice := 4, answers := ⟨[], [true], [], 0⟩ }, _, rfl, by decide, by decide⟩,
   ⟨{ base with vblank := true }, _, rfl, by decide, by decide⟩⟩
theorem witness_EveryStepKeepsTheLineDriven :
    ∃ t, LineDriven { base with input := [0x11, 0x80] } ∧ step { base with input := [0x11, 0x80] } = .next t ∧
      t.mask = 0x80 := ⟨_, rfl, rfl, rfl⟩
theorem witness_UnmappedPortsChangeNothing :
    portLookup base.params.portMap 0x55 = none ∧ portLookup base.params.portMap 0xC4 = none := by decide
theorem witness_ParallelByteIsEmittedOnce :
    base.params.sinkAttached = true ∧ base.ctrl.getLsbD base.params.ctrlBits.strobe.val = false ∧
    (0x04#8).getLsbD base.params.ctrlBits.strobe.val = true ∧
    (0x00#8).getLsbD base.params.ctrlBits.strobe.val = false := by decide
theorem witness_PsgAddressIsLatchedInRange : (15#8).toNat ≤ 15 ∧ 15 < (16#8).toNat := by decide
theorem witness_PsgDataWriteFeedsTheMask :
    ({ base with psgLatch := 14 } : State).psgLatch = 14 ∧
    (({ base with psgLatch := 15 } : State).psgLatch.toNat ≤ 15 ∧ ({ base with psgLatch := 15 } : State).psgLatch ≠ 14) ∧
    15 < ({ base with psgLatch := 16 } : State).psgLatch.toNat := by decide
theorem witness_PsgDataReadReturnsMaskOrMirror :
    ({ base with psgLatch := 14 } : State).psgLatch = 14 ∧ ({ base with psgLatch := 15 } : State).psgLatch = 15 ∧
    ({ base with psgLatch := 13 } : State).psgLatch.toNat ≤ 13 ∧
    15 < ({ base with psgLatch := 16 } : State).psgLatch.toNat := by decide
theorem witness_KeyboardReadPopsAndClearsKey : keyState.kqRd ≠ keyState.kqWr ∧ base.kqRd = base.kqWr := by decide
theorem witness_StatusReadLayout :
    (fdcInvariants diskState.fdc = true ∧ diskState.fdc.mode = .idle) ∧
    fdcInvariants (streamState 5).fdc = true ∧ (streamState 5).fdc.mode = .streamingRead := by decide
theorem witness_DataReadAdvancesTheStream :
    base.fdc.mode = .idle ∧
    ((streamState 4).fdc.mode = .streamingRead ∧ (streamState 4).fdc.cursor + 1 ≠ (streamState 4).fdc.len) ∧
    (streamState 5).fdc.mode = .streamingRead ∧ (streamState 5).fdc.cursor + 1 = (streamState 5).fdc.len := by decide
/-- One byte left to read, none, and all six. -/
theorem witness_StreamDrainsInExactlyItsLength :
    (streamState 0).fdc.mode = .streamingRead ∧ (streamState 0).fdc.cursor < (streamState 0).fdc.len ∧
    (streamState 0).fdc.cursor + 5 < (streamState 0).fdc.len ∧ (streamState 0).fdc.cursor + 6 = (streamState 0).fdc.len := by
  decide
theorem witness_CommandWriteRunsItsClass :
    cmdClass base.params.cmdDecode 0x0F = .restore ∧ cmdClass base.params.cmdDecode 0x9F = .readSector ∧
    cmdClass base.params.cmdDecode 0xC0 = .status ∧ cmdClass base.params.cmdDecode 0xDF = .irqAck ∧
    cmdClass base.params.cmdDecode 0xE0 = .diag ∧ cmdClass base.params.cmdDecode 0xA0 = .other := by decide
/-- Each branch of READ SECTOR at its boundary: drive 2; drive 1 empty; sectors 0 and 6; offsets 204800 and 203776. -/
theorem witness_ReadSectorOutcome :
    driveOf 2 = none ∧ (driveOf 1 = some .d1 ∧ driveImage .d1 diskState = none) ∧
    (driveOf diskState.fdc.driveSelect = some .d0 ∧ driveImage .d0 diskState = some img200) ∧
    ((0#8).toNat < 1 ∧ sectorsPerTrack diskState.params img200.geometry < (6#8).toNat) ∧
    (geometryBytes img200.geometry < (40 * 5 + (1 - 1)) * 1024 + 1024) ∧
    (39 * 5 + (5 - 1)) * 1024 + 1024 = geometryBytes img200.geometry := by decide
theorem witness_ReadSectorThenReadsReturnTheImage :
    driveOf diskState.fdc.driveSelect = some .d0 ∧ driveImage .d0 diskState = some img200 ∧
    1 ≤ diskState.fdc.sector.toNat ∧ diskState.fdc.sector.toNat ≤ sectorsPerTrack diskState.params img200.geometry ∧
    (diskState.fdc.track.toNat * sectorsPerTrack diskState.params img200.geometry + (diskState.fdc.sector.toNat - 1)) *
      1024 + 1024 ≤ geometryBytes img200.geometry ∧ (1023 ≤ 1024 ∧ 1023 < 1024) ∧ (1024 ≤ 1024 ∧ 1024 = 1024) := by decide
theorem witness_InsertChecksThenStoresTheImage :
    driveOf 2 = none ∧ driveOf 1 = some .d1 ∧
    (204801 ≠ 204800 ∧ 204801 ≠ 409600 ∧ 204801 ≠ 819200) ∧ (819200 = 204800 ∨ 819200 = 409600 ∨ 819200 = 819200) ∧
    driveImage .d0 diskState ≠ none ∧ driveImage .d1 diskState = none := by decide
theorem witness_EjectAbortsOnlyItsOwnStream :
    driveOf 2 = none ∧ driveOf 0 = some .d0 ∧ driveImage .d1 diskState = none ∧
    (driveImage .d0 diskState ≠ none ∧
      ¬ (diskState.fdc.mode = .streamingRead ∧ diskState.fdc.streamDrive = some .d0)) ∧
    driveImage .d0 (streamState 0) ≠ none ∧ (streamState 0).fdc.mode = .streamingRead ∧
    (streamState 0).fdc.streamDrive = some .d0 := by decide
theorem witness_EjectInsertRoundTrip : driveOf 0 = some .d0 ∧ driveImage .d0 (streamState 3) = some img200 := by decide
theorem witness_ImagesChangeOnlyByTheHost :
    ∃ t, exec (.fdcReadSector 0x80) diskState = .next t ∧ (∀ d o, Instr.fdcReadSector 0x80 ≠ .insert d o) ∧
      (∀ d, Instr.fdcReadSector 0x80 ≠ .eject d) ∧ Instr.fdcReadSector 0x80 ≠ .cpuPhase ∧
      Instr.fdcReadSector 0x80 ≠ .slice ∧ Instr.fdcReadSector 0x80 ≠ .run :=
  ⟨_, rfl, by simp, by simp, by decide, by decide, by decide⟩
theorem witness_CpuPhaseReachesTheBoundary :
    base.psgLatch.toNat ≤ 15 ∧ base.cycles < base.nextBoundary ∧
    ({ base with cycles := 10 } : State).nextBoundary ≤ ({ base with cycles := 10 } : State).cycles := by decide
theorem witness_PollAndPromoteSetTheirFlags :
    nextBool { base with answers := ⟨[], [true], [], 0⟩ } = true ∧
    nextBool { base with answers := ⟨[], [false], [], 0⟩ } = false ∧
    (({ keyState with key := false } : State).kqRd ≠ ({ keyState with key := false } : State).kqWr ∧
      ({ keyState with key := false } : State).key = false) ∧
    (base.kqRd = base.kqWr ∨ base.key = true) ∧ (keyState.kqRd = keyState.kqWr ∨ keyState.key = true) := by decide
theorem witness_WatchdogCountsAndInjects :
    (base.kqRd = base.kqWr ∧ ({ base with kbdIdle := 2 } : State).kbdIdle + 1 = base.params.watchdogSlices) ∧
    base.kbdIdle + 1 ≠ base.params.watchdogSlices ∧ keyState.kqRd ≠ keyState.kqWr := by decide
theorem witness_WatchdogInjectsOnceAtThreshold :
    base.kqRd = base.kqWr ∧ base.kbdIdle = 0 ∧ 1 ≤ base.params.watchdogSlices ∧ Memory.wf base.kq = true ∧
    2 < base.params.watchdogSlices := by decide
theorem witness_SliceIndexFrameAndBoundary :
    base.slice ≠ base.params.slicesPerFrame ∧ ({ base with slice := 4 } : State).slice = base.params.slicesPerFrame ∧
    nextBool { base with slice := 4, answers := ⟨[], [false], [], 0⟩ } = false ∧
    nextBool { base with slice := 4, answers := ⟨[], [true], [], 0⟩ } = true := by decide
theorem witness_SliceRunsItsPartsInOrder : ({ base with psgLatch := 15 } : State).psgLatch.toNat ≤ 15 := by decide
/-- The last slice of a frame, with a CPU stub. -/
theorem witness_SliceStaysInsideTheFrame :
    ∃ t, 1 ≤ base.params.slicesPerFrame ∧
      BetweenSlices { base with slice := 3, answers := ⟨[], [false, false], [⟨[], 9⟩], 0⟩ } ∧
      exec .slice { base with slice := 3, answers := ⟨[], [false, false], [⟨[], 9⟩], 0⟩ } = .next t :=
  ⟨_, by decide, by unfold BetweenSlices; decide, rfl⟩
theorem witness_StopEndsTheRunAtTheCheck : ({ base with stop := true } : State).stop = true ∧ base.stop = false := by decide
theorem witness_RunIsARepeatedSlice :
    base.romSize = .unloaded ∧ (romState.romSize ≠ .unloaded ∧ romState.psgLatch.toNat ≤ 15) ∧
    ({ romState with runState := .running } : State).faulted = false ∧
    paramsOk ({ romState with runState := .running } : State).params = true ∧
    ({ romState with runState := .running } : State).runState = .running ∧
    ({ romState with runState := .running } : State).input = [] ∧
    invariants { romState with runState := .running } = true ∧ romState.slice < romState.params.slicesPerFrame := by decide
/-- The two clauses on the end of the slice's run: `stop` set, and not set. -/
theorem witness_RunIsARepeatedSlice_end :
    (∃ u, exec .slice { romState with stop := true, answers := ⟨[], [false], [⟨[], 9⟩], 0⟩ } = .next u ∧
      u.runState = .ended) ∧
    ∃ u, exec .slice { romState with answers := ⟨[], [false], [⟨[], 9⟩], 0⟩ } = .next u ∧ u.runState ≠ .ended :=
  ⟨⟨_, rfl, by decide⟩, ⟨_, rfl, by decide⟩⟩
theorem witness_KeyPushStoresOneByte : Memory.wf keyState.kq = true := by decide
theorem witness_QueueReadsEmptyAfter256Pushes :
    base.kqRd = base.kqWr ∧ 1 ≤ (List.replicate 255 (7 : Byte)).length ∧ (List.replicate 255 (7 : Byte)).length ≤ 255 ∧
    (List.replicate 256 (7 : Byte)).length = 256 :=
  ⟨rfl, by rw [List.length_replicate]; decide, by rw [List.length_replicate], List.length_replicate⟩
theorem witness_QueueReturnsBytesInOrder :
    base.kqRd = base.kqWr ∧ Memory.wf base.kq = true ∧ ([1, 2, 3] : List Byte).length ≤ 255 := by decide
theorem witness_OnlyCpuStepsAdvanceCycles :
    ∃ t, exec .fdcTick base = .next t ∧ Instr.fdcTick ≠ .cpuPhase ∧ Instr.fdcTick ≠ .slice ∧ Instr.fdcTick ≠ .run ∧
      Instr.fdcTick ≠ .reset := ⟨_, rfl, by decide, by decide, by decide, by decide⟩
theorem witness_RomAndParametersStayFixed :
    ∃ t, exec (.memWr 0 1) romState = .next t ∧ ∀ img, Instr.memWr 0 1 ≠ .romLoad img := ⟨_, rfl, by simp⟩
theorem witness_RomLoadAcceptsTwoSizes :
    ({ base with runState := .running } : State).runState ≠ .notStarted ∧ base.runState = .notStarted ∧
    (4097 ≠ 4096 ∧ 4097 ≠ 8192) ∧ (8192 = 4096 ∨ 8192 = 8192) := by decide
/-- The state after reset meets the invariant, and steps. -/
theorem witness_EveryStepKeepsTheInvariants :
    ∃ t, Inv { base with input := [0x34, 0x20] } ∧ step { base with input := [0x34, 0x20] } = .next t ∧ t.kqWr = 1 :=
  ⟨_, ⟨by decide, by decide, by decide, by decide, ⟨by decide, by decide⟩, ⟨by decide, by decide⟩,
    ⟨by decide, by decide⟩, ⟨by decide, by decide⟩, trivial, trivial⟩, rfl, rfl⟩
theorem witness_NoOperationIsFatalInRange :
    ∃ t, ({ base with psgLatch := 15 } : State).psgLatch.toNat ≤ 15 ∧ exec .psgDataRd { base with psgLatch := 15 } = .next t :=
  ⟨_, by decide, rfl⟩
theorem witness_FaultedAndEndedMachinesStop :
    ({ base with faulted := true } : State).faulted = true ∧
    (base.faulted = false ∧ paramsOk base.params = true ∧ ({ base with runState := .ended } : State).runState = .ended) ∧
    base.runState ≠ .ended ∧ invariants { base with psgLatch := 16, input := [0x10] } = false ∧
    decode base.params [0x10] = .ok (.recompute, []) := ⟨rfl, ⟨rfl, by decide, rfl⟩, by decide, by decide, rfl⟩
theorem witness_StepRunsTheDecodedOperation :
    ({ base with input := [0x18, 0x36] } : State).faulted = false ∧ paramsOk base.params = true ∧
    base.runState ≠ .ended ∧ decode base.params [0x18, 0x36] = .ok (.slice, [0x36]) ∧
    invariants { base with input := [0x18, 0x36] } = true ∧ beginsSlice .slice = true ∧
    base.slice < base.params.slicesPerFrame := ⟨rfl, by decide, by decide, rfl, by decide, rfl, by decide⟩
theorem witness_DecodeInvertsEncode :
    paramsOk bindings = true ∧ (Instr.ctrlWr 0x04).wellFormed bindings = true ∧
    (Instr.unmappedRd 0x55).wellFormed bindings = true ∧ (Instr.fdcDiag 0xEF).wellFormed bindings = true ∧
    (Instr.loadStream (List.replicate 6 1)).wellFormed bindings = true ∧
    (Instr.insert 0 (some ⟨819200, [(819199, 1)]⟩)).wellFormed bindings = true := by decide

end Sys2Proof.Tests
end

section
/-! The scope of the block (00_scope.md): one bus access is one decoded operation (R11), and one step is one decoded
operation (R10). -/

namespace Sys2Proof.Machine

/-! ### The port dispatch and the operation of a handler -/

/-- The read the dispatcher calls for a handler is the one the decoder names (R91). -/
theorem exec_readInstr (h : Handler) (s : State) : exec (readInstr h) s = handlerRead h s := by
  cases h <;> rfl

/-- The write the dispatcher calls for a handler is the one the decoder names (R91). -/
theorem exec_writeInstr (h : Handler) (v : Byte) (s : State) : exec (writeInstr h v) s = handlerWrite h v s := by
  cases h <;> rfl

/-- PORT_RD runs the operation the port map gives the port (R162). -/
theorem portRead_eq_exec (q : Port) (s : State) : portRead q s = exec (portReadInstr s.params q) s := by
  unfold portRead portReadInstr
  cases portLookup s.params.portMap q with
  | none => rfl
  | some h => exact (exec_readInstr h s).symm

/-- PORT_WR runs the operation the port map gives the port (R163). -/
theorem portWrite_eq_exec (q : Port) (v : Byte) (s : State) :
    portWrite q v s = exec (portWriteInstr s.params q v) s := by
  unfold portWrite portWriteInstr
  cases portLookup s.params.portMap q with
  | none => rfl
  | some h => exact (exec_writeInstr h v s).symm

/-- The decoder of a port read cycle (log entry 1). -/
theorem decode_portRead (p : Params) (q : Port) (rest : List Byte) :
    decode p (0x03 :: q :: rest) = .ok (portReadInstr p q, rest) := rfl

/-- The decoder of a port write cycle (log entry 1). -/
theorem decode_portWrite (p : Params) (q : Port) (v : Byte) (rest : List Byte) :
    decode p (0x04 :: q :: v :: rest) = .ok (portWriteInstr p q v, rest) := rfl

/-- Settles O20: the CPU phase and the decoder dispatch a port through the same lookup, handler by handler. -/
theorem cpuAccessIsTheDecodedOperation : Obligations.CpuAccessIsTheDecodedOperation := by
  intro s a q v rest
  have hread : busAccess (.memRead a) s = exec (.memRd a) s := rfl
  have hwrite : busAccess (.memWrite a v) s = exec (.memWr a v) s := rfl
  exact ⟨hread, hwrite,
    ⟨_, decode_portRead s.params q rest, portRead_eq_exec q s⟩,
    ⟨_, decode_portWrite s.params q v rest, portWrite_eq_exec q v s⟩⟩

/-! ### From the pending bytes to the step -/

/-- The strict slice bound is asked only before the operations of `beginsSlice` (R49 item 5, log entries 15, 29). -/
theorem sliceStartOk_iff {i : Instr} {s : State} :
    sliceStartOk i s = true ↔ (beginsSlice i = true → BetweenSlices s) := by
  unfold sliceStartOk BetweenSlices
  cases beginsSlice i <;> simp

/-- An operation is run from a state that keeps the invariants asked before it (R49). -/
theorem checked_of_ok {i : Instr} {s : State} (hinv : invariants s = true) (hslice : sliceStartOk i s = true) :
    checked i s = .exec i s := by
  simp [checked, hinv, hslice]

/-- The first pending operation is the one the input decodes to; an input that decodes is not empty. -/
theorem pending_of_decode {s : State} {i : Instr} {rest : List Byte} (hdec : decode s.params s.input = .ok (i, rest)) :
    pending s = checked i { s with input := rest } := by
  unfold pending
  cases hin : s.input with
  | nil =>
    rw [hin] at hdec
    cases hdec
  | cons b bs =>
    rw [hin] at hdec
    simp only [hdec]

/-- A machine that is not faulted or ended, with well-formed parameters, goes on to what is pending (R46, D49). -/
theorem turn_eq_pending {s : State} (hfault : s.faulted = false) (hparams : paramsOk s.params = true)
    (hrun : s.runState ≠ .ended) : turn s = pending s := by
  unfold turn
  rw [if_neg (by simp [hfault]), if_neg (by simp [hparams])]
  cases h : s.runState with
  | ended => exact absurd h hrun
  | notStarted | running => rfl

/-- A step whose turn is an operation is that operation. -/
theorem step_of_turn_exec {s t : State} {i : Instr} (h : turn s = .exec i t) : step s = exec i t := by
  simp only [step, h]

/-- Settles O58: the pending bytes give the turn, and the checks before it read no pending byte. -/
theorem stepRunsTheDecodedOperation : Obligations.StepRunsTheDecodedOperation := by
  intro s i rest hfault hparams hrun hdec hinv hslice
  have hinv' : invariants { s with input := rest } = true := hinv
  have hslice' : sliceStartOk i { s with input := rest } = true := sliceStartOk_iff.2 hslice
  have hturn : turn s = .exec i { s with input := rest } := calc
    turn s = pending s := turn_eq_pending hfault hparams hrun
    _ = checked i { s with input := rest } := pending_of_decode hdec
    _ = .exec i { s with input := rest } := checked_of_ok hinv' hslice'
  exact step_of_turn_exec hturn

end Sys2Proof.Machine
end

section
/-! What one operation can do, said once: every operation is a sequence of the basic updates of `Update`
(`exec_updates`). An invariant of the machine is then a property that each basic update keeps. -/

namespace Sys2Proof.Machine

/-! ### The basic updates -/

/-- What only some operations may do. Any operation may do every other basic update. -/
inductive Power where
  /-- Change what a drive holds (R240, R241). -/
  | image
  /-- Advance the cycle counter (R41). -/
  | clock
  /-- Change the slice index (R269, R271). -/
  | sliceIndex
  /-- Load the ROM (R322). -/
  | rom
  /-- Load a stream of any length (R228). -/
  | stream
  /-- Put every register at its reset value (R320). -/
  | reset

/-- One basic update of the state, by an operation that has the powers `A`. A hypothesis of a constructor is what the
operations that make this update ensure. -/
inductive Update (A : List Power) : State → State → Prop
  | log (e : Event) (s : State) (he : ∀ tr, lastLine (e :: tr) = lastLine tr) : Update A s (log e s)
  | recompute (s : State) : Update A s (recompute s)
  | flag (f : Flag) (v : Bool) (s : State) : Update A s (recompute (setFlag f v s))
  | mask (v : Byte) (s : State) : Update A s (maskWrite v s)
  | answers (a : Answers) (s : State) : Update A s { s with answers := a }
  | ram (a : Addr) (v : Byte) (s : State) : Update A s (memWrite a v s)
  | ctrl (v : Byte) (s : State) : Update A s { s with ctrl := v }
  | parLatch (v : Byte) (s : State) : Update A s { s with parLatch := v }
  | psgLatch (v : Byte) (s : State) (hv : v.toNat ≤ 15) : Update A s { s with psgLatch := v }
  | enterIdle (s : State) : Update A s (enterIdle s)
  | setStatus (i : Nat) (v : Bool) (s : State) (hi : i = bitSeekErr ∨ i = bitNotReady ∨ i = bitBusy ∧ v = false) :
      Update A s (setStatus i v s)
  | fdcRegisters (track sector data drive : Byte) (s : State) : Update A s { s with fdc := { s.fdc with
      track := track, sector := sector, data := data, driveSelect := drive } }
  | fdcDataAdvance (s : State) : Update A s { s with fdc := (fdcDataAdvance s).fdc }
  | fdcTick (s : State) : Update A s (fdcTick s)
  | loadStream (m : Memory) (n : Nat) (s : State)
      (hm : ImageOk s.drive0 → ImageOk s.drive1 → Memory.wf m = true) (hpos : 0 < n) (hle : n ≤ 1024) :
      Update A s (loadStream m n s)
  | kqPush (b : Byte) (s : State) : Update A s (kqPush b s)
  | kqPop (s : State) : Update A s (kqPop s)
  | kbdIdle (n : Nat) (s : State) (hn : s.kbdIdle < s.params.watchdogSlices → n < s.params.watchdogSlices) :
      Update A s { s with kbdIdle := n }
  | nextBoundary (n : Nat) (s : State) : Update A s { s with nextBoundary := n }
  | stop (s : State) : Update A s (setStop s)
  | runState (r : RunState) (s : State) : Update A s { s with runState := r }
  | image (d : DriveId) (o : Option Image) (s : State) (hA : .image ∈ A) (ho : ImageOk o) :
      Update A s (setDriveImage d o s)
  | cycles (n : Nat) (s : State) (hA : .clock ∈ A) : Update A s { s with cycles := s.cycles + n }
  | sliceIndex (n : Nat) (s : State) (hA : .sliceIndex ∈ A) : Update A s { s with slice := n }
  | rom (m : Memory) (z : RomSize) (s : State) (hA : .rom ∈ A) (hm : ArrayOk 8192 s.rom → ArrayOk 8192 m) :
      Update A s { s with rom := m, romSize := z }
  | anyStream (bytes : List Byte) (s : State) (hA : .stream ∈ A) :
      Update A s (loadStream (Memory.ofBytes bytes) bytes.length s)
  | reset (s : State) (hA : .reset ∈ A) : Update A s (resetBlock s)

/-- A sequence of basic updates. -/
def Updates (A : List Power) : State → State → Prop := Relation.ReflTransGen (Update A)

namespace Updates

variable {A : List Power} {s t : State}

theorem refl (s : State) : Updates A s s := Relation.ReflTransGen.refl

theorem trans {u : State} (h : Updates A s t) (h' : Updates A t u) : Updates A s u := Relation.ReflTransGen.trans h h'

theorem tail {u : State} (h : Updates A s t) (h' : Update A t u) : Updates A s u := Relation.ReflTransGen.tail h h'

/-- What every basic update keeps, a sequence of them keeps. -/
theorem keeps {P : State → Prop} (hP : ∀ s t, Update A s t → P s → P t) (h : Updates A s t) (hs : P s) :
    P t := by
  induction h with
  | refl => exact hs
  | tail _ hu ih => exact hP _ _ hu ih

/-- The updates of an operation that completes are those of the state it answers. -/
theorem of_next {u : State} (hu : Updates A s u) (h : (.next u : Result) = .next t) : Updates A s t := by
  cases h
  exact hu

/-! One more update at the end of a sequence, for the updates that operations are written with. -/

theorem log (h : Updates A s t) (e : Event) (he : ∀ tr, lastLine (e :: tr) = lastLine tr := by intro tr; rfl) :
    Updates A s (log e t) := h.tail (.log e t he)

theorem flagSet (h : Updates A s t) (f : Flag) : Updates A s (flagSet f t) := h.tail (.flag f true t)

theorem flagClear (h : Updates A s t) (f : Flag) : Updates A s (flagClear f t) := h.tail (.flag f false t)

theorem dropByte (h : Updates A s t) : Updates A s (dropByte t) := h.tail (.answers _ t)

theorem dropBool (h : Updates A s t) : Updates A s (dropBool t) := h.tail (.answers _ t)

theorem dropCpuStep (h : Updates A s t) : Updates A s (dropCpuStep t) := h.tail (.answers _ t)

theorem enterIdle (h : Updates A s t) : Updates A s (enterIdle t) := h.tail (.enterIdle t)

theorem notReady (h : Updates A s t) (v : Bool) : Updates A s (setStatus bitNotReady v t) :=
  h.tail (.setStatus _ v t (.inr (.inl rfl)))

theorem seekErr (h : Updates A s t) (v : Bool) : Updates A s (setStatus bitSeekErr v t) :=
  h.tail (.setStatus _ v t (.inl rfl))

theorem clearBusy (h : Updates A s t) : Updates A s (setStatus bitBusy false t) :=
  h.tail (.setStatus _ false t (.inr (.inr ⟨rfl, rfl⟩)))

end Updates

/-! ### The bus operations -/

section
variable {A : List Power}

theorem strobeEdge_updates (old new : Byte) (s : State) : Updates A s (strobeEdge old new s) := by
  rcases strobeEdge_cases old new s with ⟨_, e⟩ | ⟨_, e⟩
  · rw [e]
    exact (Updates.refl s).log (.sinkByte s.parLatch)
  · rw [e]
    exact .refl s

theorem ctrlWrite_updates (v : Byte) (s : State) : Updates A s (ctrlWrite v s) :=
  ((Updates.refl s).tail (.ctrl v s)).trans (strobeEdge_updates s.ctrl v _)

theorem psgAddrWrite_updates (v : Byte) (s : State) : Updates A s (psgAddrWrite v s) := by
  rcases psgAddrWrite_cases v s with ⟨hv, e⟩ | ⟨_, e⟩
  · rw [e]
    exact (Updates.refl s).tail (.psgLatch v s hv)
  · rw [e]
    exact (Updates.refl s).log (.diag (.psgAddress v))

theorem psgDataWrite_updates {v : Byte} {s t : State} (h : psgDataWrite v s = .next t) : Updates A s t := by
  obtain ⟨_, ⟨_, rfl⟩ | ⟨_, rfl⟩⟩ := psgDataWrite_eq_next h
  · exact ((Updates.refl s).tail (.mask v s)).log _
  · exact (Updates.refl s).log _

theorem psgDataRead_updates {s t : State} (h : psgDataRead s = .next t) : Updates A s t := by
  obtain ⟨_, ⟨_, rfl⟩ | ⟨_, rfl⟩ | ⟨_, _, rfl⟩⟩ := psgDataRead_eq_next h
  · exact (Updates.refl s).log _
  · exact (Updates.refl s).log _
  · exact ((Updates.refl s).dropByte.log _).log _

theorem hccaRead_updates (s : State) : Updates A s (hccaRead s) :=
  (((Updates.refl s).dropByte.log .modemRead).flagClear .rx).log (.reply (nextByte s))

theorem kbdRead_updates (s : State) : Updates A s (kbdRead s) := by
  unfold kbdRead
  split
  · exact ((Updates.refl s).dropByte.flagClear .key).log (.reply (nextByte s))
  · exact (((Updates.refl s).tail (.kqPop s)).flagClear .key).log (.reply (kqHead s))

theorem vdpStatusRead_updates (s : State) : Updates A s (vdpStatusRead s) :=
  (((Updates.refl s).dropByte.log .vdpStatusRead).flagClear .vblank).log (.reply (nextByte s))

theorem vdpDataRead_updates (s : State) : Updates A s (vdpDataRead s) :=
  ((Updates.refl s).dropByte.log .vdpDataRead).log (.reply (nextByte s))

theorem unmappedRead_updates (p : Port) (s : State) : Updates A s (unmappedRead p s) :=
  ((Updates.refl s).log (.diag (.unmappedRead p))).log (.reply s.params.unmappedRead)

theorem unmappedWrite_updates (p : Port) (s : State) : Updates A s (unmappedWrite p s) :=
  (Updates.refl s).log (.diag (.unmappedWrite p))

/-- A read of the data register changes the floppy controller alone (R217). -/
theorem fdcDataAdvance_frame (s : State) : fdcDataAdvance s = { s with fdc := (fdcDataAdvance s).fdc } := by
  rcases fdcDataAdvance_cases s with ⟨_, e⟩ | ⟨_, _, e⟩ | ⟨_, _, e⟩
  · rw [e]
  · rw [e]
    rfl
  · rw [e]

theorem fdcDataRead_updates (s : State) : Updates A s (fdcDataRead s) := by
  have hadv : Updates A s (fdcDataAdvance s) := by
    rw [fdcDataAdvance_frame]
    exact (Updates.refl s).tail (.fdcDataAdvance s)
  exact hadv.log (.reply (fdcDataAdvance s).fdc.data)

theorem fdcTrackWrite_updates (v : Byte) (s : State) : Updates A s (fdcTrackWrite v s) :=
  (Updates.refl s).tail (.fdcRegisters v s.fdc.sector s.fdc.data s.fdc.driveSelect s)

theorem fdcSectorWrite_updates (v : Byte) (s : State) : Updates A s (fdcSectorWrite v s) :=
  (Updates.refl s).tail (.fdcRegisters s.fdc.track v s.fdc.data s.fdc.driveSelect s)

theorem fdcDataWrite_updates (v : Byte) (s : State) : Updates A s (fdcDataWrite v s) :=
  (Updates.refl s).tail (.fdcRegisters s.fdc.track s.fdc.sector v s.fdc.driveSelect s)

theorem fdcSelectWrite_updates (v : Byte) (s : State) : Updates A s (fdcSelectWrite v s) :=
  (Updates.refl s).tail (.fdcRegisters s.fdc.track s.fdc.sector s.fdc.data v s)

/-! ### The floppy commands -/

theorem restoreCommand_updates (s : State) : Updates A s (restoreCommand s) :=
  ((fdcTrackWrite_updates 0 s).clearBusy.notReady false).enterIdle

theorem irqAckCommand_updates (s : State) : Updates A s (irqAckCommand s) :=
  (Updates.refl s).clearBusy.notReady false

theorem otherCommand_updates (c : Byte) (s : State) : Updates A s (otherCommand c s) :=
  (Updates.refl s).log (.diag (.unknownCommand c))

theorem statusCommand_updates (s : State) : Updates A s (statusCommand s) :=
  (Updates.refl s).enterIdle.tail
    (.loadStream _ 6 _ (fun _ _ => wf_ofBytes (statusBlock s)) (by omega) (by omega))

theorem diagCommand_updates (s : State) : Updates A s (diagCommand s) :=
  (Updates.refl s).enterIdle.tail
    (.loadStream _ 38 _ (fun _ _ => wf_ofBytes s.params.syncPattern) (by omega) (by omega))

theorem readSectorStart_updates (s : State) : Updates A s (readSectorStart s) :=
  ((Updates.refl s).enterIdle.seekErr false).notReady false

/-- The image of a drive is canonical if both drives hold canonical images (R38). -/
theorem arrayOk_of_driveImage {d : DriveId} {img : Image} {s : State} (h : driveImage d s = some img)
    (h0 : ImageOk s.drive0) (h1 : ImageOk s.drive1) : ArrayOk (geometryBytes img.geometry) img.data := by
  cases d with
  | d0 =>
    have hd : s.drive0 = some img := h
    rwa [hd] at h0
  | d1 =>
    have hd : s.drive1 = some img := h
    rwa [hd] at h1

theorem readSectorCommand_updates (s : State) : Updates A s (readSectorCommand s) := by
  have hstart : Updates A s (readSectorStart s) := readSectorStart_updates s
  rcases readSectorCommand_cases s with ⟨_, e⟩ | ⟨_, _, _, e⟩ | ⟨_, _, _, _, _, e⟩ | ⟨_, _, _, _, _, _, _, e⟩ |
    ⟨d, img, _, himg, _, _, _, e⟩
  · rw [e]
    exact (hstart.notReady true).log (.diag .badDrive)
  · rw [e]
    exact (hstart.notReady true).log (.diag .noDisk)
  · rw [e]
    exact (hstart.seekErr true).log (.diag .badSector)
  · rw [e]
    exact (hstart.seekErr true).log (.diag .beyondImage)
  · rw [e]
    exact hstart.tail (.loadStream _ 1024 _ (fun h0 h1 => wf_slice (arrayOk_of_driveImage himg h0 h1).1 _ _)
      (by omega) (le_refl _))

theorem fdcCommand_updates (c : Byte) (s : State) : Updates A s (fdcCommand c s) := by
  unfold fdcCommand
  cases cmdClass s.params.cmdDecode c with
  | restore => exact restoreCommand_updates s
  | readSector => exact readSectorCommand_updates s
  | status => exact statusCommand_updates s
  | diag => exact diagCommand_updates s
  | irqAck => exact irqAckCommand_updates s
  | other => exact otherCommand_updates c s

/-! ### The accesses and the host's actions of a CPU phase -/

theorem handlerRead_updates (k : Handler) {s t : State} (h : handlerRead k s = .next t) : Updates A s t := by
  cases k with
  | psgData => exact psgDataRead_updates h
  | hcca => exact .of_next (hccaRead_updates s) h
  | kbd => exact .of_next (kbdRead_updates s) h
  | vdpData => exact .of_next (vdpDataRead_updates s) h
  | vdpCtrl => exact .of_next (vdpStatusRead_updates s) h
  | fdcData => exact .of_next (fdcDataRead_updates s) h
  | ctrl | psgAddr | par | fdcSel => exact .of_next ((Updates.refl s).log (.reply s.params.unmappedRead)) h
  | fdcCmdStat => exact .of_next ((Updates.refl s).log (.reply (fdcStatusByte s))) h
  | fdcTrack => exact .of_next ((Updates.refl s).log (.reply s.fdc.track)) h
  | fdcSector => exact .of_next ((Updates.refl s).log (.reply s.fdc.sector)) h

theorem handlerWrite_updates (k : Handler) {v : Byte} {s t : State} (h : handlerWrite k v s = .next t) :
    Updates A s t := by
  cases k with
  | ctrl => exact .of_next (ctrlWrite_updates v s) h
  | psgData => exact psgDataWrite_updates h
  | psgAddr => exact .of_next (psgAddrWrite_updates v s) h
  | hcca => exact .of_next ((Updates.refl s).log (.modemWrite v)) h
  | kbd => exact .of_next ((Updates.refl s).log (.diag (.keyboardWrite v))) h
  | vdpData => exact .of_next ((Updates.refl s).log (.vdpDataWrite v)) h
  | vdpCtrl => exact .of_next ((Updates.refl s).log (.vdpControlWrite v)) h
  | par => exact .of_next ((Updates.refl s).tail (.parLatch v s)) h
  | fdcCmdStat => exact .of_next (fdcCommand_updates v s) h
  | fdcTrack => exact .of_next (fdcTrackWrite_updates v s) h
  | fdcSector => exact .of_next (fdcSectorWrite_updates v s) h
  | fdcData => exact .of_next (fdcDataWrite_updates v s) h
  | fdcSel => exact .of_next (fdcSelectWrite_updates v s) h

theorem busAccess_updates (a : BusAccess) (s t : State) (h : busAccess a s = .next t) : Updates A s t := by
  cases a with
  | memRead x => exact .of_next ((Updates.refl s).log (.reply (memRead x s))) h
  | memWrite x v => exact .of_next ((Updates.refl s).tail (.ram x v s)) h
  | portRead p =>
    simp only [busAccess, portRead] at h
    cases hp : portLookup s.params.portMap p with
    | none => exact .of_next (unmappedRead_updates p s) (by rwa [hp] at h)
    | some k => exact handlerRead_updates k (by rwa [hp] at h)
  | portWrite p v =>
    simp only [busAccess, portWrite] at h
    cases hp : portLookup s.params.portMap p with
    | none => exact .of_next (unmappedWrite_updates p s) (by rwa [hp] at h)
    | some k => exact handlerWrite_updates k (by rwa [hp] at h)

theorem setTx_updates (v : Bool) (s : State) : Updates A s (setTx v s) := by
  cases v with
  | false => exact (Updates.refl s).flagClear .tx
  | true => exact (Updates.refl s).flagSet .tx

/-- A length that gives a geometry is that geometry's length (R38). -/
theorem geometryBytes_of_geometryOfSize {n : Nat} {g : Geometry} (h : geometryOfSize n = some g) :
    geometryBytes g = n := by
  unfold geometryOfSize at h
  split_ifs at h <;> cases h <;> simp [geometryBytes, *]

theorem insertDisk_updates (hA : .image ∈ A) {d : Byte} {img : Option RawImage} {s t : State}
    (h : insertDisk d img s = .next t) : Updates A s t := by
  obtain ⟨dr, raw, g, _, _, hg, _, rfl⟩ := insertDisk_eq_next h
  have himg : ImageOk (some ⟨g, Memory.normalize raw.size raw.data⟩) := by
    refine ⟨wf_normalize _ _, ?_⟩
    rw [geometryBytes_of_geometryOfSize hg]
    exact below_normalize _ _
  exact (Updates.refl s).tail (.image dr _ s hA himg)

theorem ejectDisk_updates (hA : .image ∈ A) {d : Byte} {s t : State} (h : ejectDisk d s = .next t) :
    Updates A s t := by
  obtain ⟨dr, _, ⟨_, rfl⟩ | ⟨_, _, _, rfl⟩ | ⟨_, _, rfl⟩⟩ := ejectDisk_eq_next h
  · exact (Updates.refl s).log (.diag (.driveEmpty dr))
  · exact (Updates.refl s).enterIdle.tail (.image dr none _ hA trivial)
  · exact (Updates.refl s).tail (.image dr none s hA trivial)

theorem hostAct_updates (hA : .image ∈ A) (x : HostAct) {s t : State} (h : hostAct x s = .next t) :
    Updates A s t := by
  cases x with
  | keyPush b => exact .of_next ((Updates.refl s).tail (.kqPush b s)) h
  | txe v => exact .of_next (setTx_updates v s) h
  | insert d img => exact insertDisk_updates hA h
  | eject d => exact ejectDisk_updates hA h
  | stop => exact .of_next ((Updates.refl s).tail (.stop s)) h

theorem hostActInPhase_updates (hA : .image ∈ A) (x : HostAct) (s t : State) (h : hostActInPhase x s = .next t) :
    Updates A s t := by
  obtain ⟨u, hu, hdone | ⟨e, _, rfl⟩⟩ := hostActInPhase_cases x s
  · obtain rfl : u = t := by simpa [hu] using h
    exact hostAct_updates hA x hdone
  · exact .of_next ((Updates.refl s).log (.hostRefused e)) (hu.symm.trans h)

theorem cpuPhase_updates (hi : .image ∈ A) (hc : .clock ∈ A) {s t : State} (h : cpuPhase s = .next t) :
    Updates A s t :=
  cpuPhase_keeps (P := Updates A s)
    (fun a u v hb hu => hu.trans (busAccess_updates a u v hb))
    (fun x u v hh hu => hu.trans (hostActInPhase_updates hi x u v hh))
    (fun _ hu => hu.dropCpuStep.log _)
    (fun u n hu => hu.tail (.cycles n u hc))
    s t h (.refl s)

/-! ### The scheduler -/

theorem rxPoll_updates (s : State) : Updates A s (rxPoll s) := by
  rcases rxPoll_cases s with ⟨_, e⟩ | ⟨_, e⟩
  · rw [e]
    exact ((Updates.refl s).dropBool.log .modemPoll).flagSet .rx
  · rw [e]
    exact (Updates.refl s).dropBool.log .modemPoll

theorem keyPromote_updates (s : State) : Updates A s (keyPromote s) := by
  rcases keyPromote_cases s with ⟨_, _, e⟩ | e
  · rw [e]
    exact (Updates.refl s).flagSet .key
  · rw [e]
    exact .refl s

theorem watchdog_updates (s : State) : Updates A s (watchdog s) := by
  rcases watchdog_cases s with ⟨_, _, e⟩ | ⟨_, hne, e⟩ | ⟨_, e⟩
  · rw [e]
    exact ((Updates.refl s).tail (.kqPush s.params.keepaliveCode s)).tail
      (.kbdIdle 0 _ fun hlt => Nat.zero_lt_of_lt hlt)
  · rw [e]
    exact (Updates.refl s).tail (.kbdIdle _ s fun hlt => by omega)
  · rw [e]
    exact (Updates.refl s).tail (.kbdIdle 0 s fun hlt => Nat.zero_lt_of_lt hlt)

theorem housekeeping_updates (s : State) : Updates A s (housekeeping s) :=
  ((((Updates.refl s).tail (.fdcTick s)).trans (rxPoll_updates _)).trans (keyPromote_updates _)).trans
    (watchdog_updates _)

theorem sliceIncrement_updates (hA : .sliceIndex ∈ A) (s : State) : Updates A s (sliceIncrement s) :=
  (Updates.refl s).tail (.sliceIndex _ s hA)

theorem renderCheck_updates (s : State) : Updates A s (renderCheck s) := by
  unfold renderCheck
  split
  · exact (Updates.refl s).log (.renderRow s.slice)
  · exact .refl s

theorem frameCheck_updates (hA : .sliceIndex ∈ A) (s : State) : Updates A s (frameCheck s) := by
  have hframe : Updates A s (log .vdpVblankEnable (dropBool (log .frameComplete { s with slice := 0 }))) :=
    (((Updates.refl s).tail (.sliceIndex 0 s hA)).log .frameComplete).dropBool.log .vdpVblankEnable
  rcases frameCheck_cases s with ⟨_, e⟩ | ⟨_, _, e⟩ | ⟨_, _, e⟩
  · rw [e]
    exact .refl s
  · rw [e]
    exact hframe.flagSet .vblank
  · rw [e]
    exact hframe

theorem boundaryAdvance_updates (s : State) : Updates A s (boundaryAdvance s) :=
  (Updates.refl s).tail (.nextBoundary _ s)

theorem stopCheck_updates (s : State) : Updates A s (stopCheck s) := by
  unfold stopCheck
  split
  · exact (Updates.refl s).tail (.runState .ended s)
  · exact .refl s

theorem sliceTail_updates (hA : .sliceIndex ∈ A) (s : State) : Updates A s (sliceTail s) :=
  (((((housekeeping_updates s).trans (sliceIncrement_updates hA _)).trans (renderCheck_updates _)).trans
    (frameCheck_updates hA _)).trans (boundaryAdvance_updates _)).trans (stopCheck_updates _)

theorem sliceStep_updates (hi : .image ∈ A) (hc : .clock ∈ A) (hs : .sliceIndex ∈ A) {s t : State}
    (h : sliceStep s = .next t) : Updates A s t := by
  obtain ⟨u, hu, rfl, _⟩ := sliceStep_eq_next h
  exact (cpuPhase_updates hi hc hu).trans (sliceTail_updates hs u)

theorem runOn_updates (s : State) : Updates A s (runOn s) := by
  unfold runOn
  split
  · exact .refl s
  · exact (Updates.refl s).tail (.runState .running s)

theorem runBlock_updates (hi : .image ∈ A) (hc : .clock ∈ A) (hs : .sliceIndex ∈ A) {s t : State}
    (h : runBlock s = .next t) : Updates A s t := by
  obtain ⟨_, u, hu, rfl⟩ := runBlock_eq_next h
  exact (sliceStep_updates hi hc hs hu).trans (runOn_updates u)

/-! ### The ROM -/

/-- A length that gives a ROM size is one of the two (R322). -/
theorem le_8192_of_romSizeOf {n : Nat} {z : RomSize} (h : romSizeOf n = some z) : n ≤ 8192 := by
  unfold romSizeOf at h
  split_ifs at h <;> omega

theorem loadRom_updates (hA : .rom ∈ A) {img : RawImage} {s t : State} (h : loadRom img s = .next t) :
    Updates A s t := by
  obtain ⟨_, z, hz, rfl⟩ := loadRom_eq_next h
  have hrom : ArrayOk 8192 s.rom →
      ArrayOk 8192 (Memory.overlay (Memory.normalize img.size img.data) img.size s.rom) :=
    fun ⟨hwf, hbelow⟩ => ⟨wf_overlay (wf_normalize _ _) hwf _, below_overlay (le_8192_of_romSizeOf hz) hbelow⟩
  exact (Updates.refl s).tail (.rom _ z s hA hrom)

end

/-! ### Every operation -/

/-- The powers of an operation. -/
def powers : Instr → List Power
  | .cpuPhase => [.image, .clock]
  | .slice => [.image, .clock, .sliceIndex]
  | .run => [.image, .clock, .sliceIndex]
  | .insert _ _ => [.image]
  | .eject _ => [.image]
  | .sliceIncrement => [.sliceIndex]
  | .frameCheck => [.sliceIndex]
  | .romLoad _ => [.rom]
  | .loadStream _ => [.stream]
  | .reset => [.reset]
  | _ => []

/-- Everything an operation can do: a sequence of basic updates within its powers. -/
theorem exec_updates {i : Instr} {s t : State} (h : exec i s = .next t) : Updates (powers i) s t := by
  cases i with
  | memRd a => exact busAccess_updates (.memRead a) s t h
  | memWr a v => exact busAccess_updates (.memWrite a v) s t h
  | ctrlRd => exact handlerRead_updates .ctrl h
  | ctrlWr v => exact handlerWrite_updates .ctrl h
  | psgDataRd => exact handlerRead_updates .psgData h
  | psgDataWr v => exact handlerWrite_updates .psgData h
  | psgAddrRd => exact handlerRead_updates .psgAddr h
  | psgAddrWr v => exact handlerWrite_updates .psgAddr h
  | hccaRd => exact handlerRead_updates .hcca h
  | hccaWr v => exact handlerWrite_updates .hcca h
  | kbdRd => exact handlerRead_updates .kbd h
  | kbdWr v => exact handlerWrite_updates .kbd h
  | vdpDataRd => exact handlerRead_updates .vdpData h
  | vdpDataWr v => exact handlerWrite_updates .vdpData h
  | vdpCtrlRd => exact handlerRead_updates .vdpCtrl h
  | vdpCtrlWr v => exact handlerWrite_updates .vdpCtrl h
  | parRd => exact handlerRead_updates .par h
  | parWr v => exact handlerWrite_updates .par h
  | fdcStatusRd => exact handlerRead_updates .fdcCmdStat h
  | fdcCmdWr c => exact handlerWrite_updates .fdcCmdStat h
  | fdcTrackRd => exact handlerRead_updates .fdcTrack h
  | fdcTrackWr v => exact handlerWrite_updates .fdcTrack h
  | fdcSectorRd => exact handlerRead_updates .fdcSector h
  | fdcSectorWr v => exact handlerWrite_updates .fdcSector h
  | fdcDataRd => exact handlerRead_updates .fdcData h
  | fdcDataWr v => exact handlerWrite_updates .fdcData h
  | fdcSelRd => exact handlerRead_updates .fdcSel h
  | fdcSelWr v => exact handlerWrite_updates .fdcSel h
  | unmappedRd p => exact .of_next (unmappedRead_updates p s) h
  | unmappedWr p v => exact .of_next (unmappedWrite_updates p s) h
  | strobeEdge old new => exact .of_next (strobeEdge_updates old new s) h
  | fdcRestore c => exact .of_next (restoreCommand_updates s) h
  | fdcOther c => exact .of_next (otherCommand_updates c s) h
  | fdcReadSector c => exact .of_next (readSectorCommand_updates s) h
  | fdcStatus c => exact .of_next (statusCommand_updates s) h
  | fdcIrqAck c => exact .of_next (irqAckCommand_updates s) h
  | fdcDiag c => exact .of_next (diagCommand_updates s) h
  | recompute => exact .of_next ((Updates.refl s).tail (.recompute s)) h
  | maskWrite v => exact .of_next ((Updates.refl s).tail (.mask v s)) h
  | flagSet f => exact .of_next ((Updates.refl s).flagSet f) h
  | flagClear f => exact .of_next ((Updates.refl s).flagClear f) h
  | enterIdle => exact .of_next (Updates.refl s).enterIdle h
  | loadStream bytes => exact .of_next ((Updates.refl s).tail (.anyStream bytes s (by simp [powers]))) h
  | indexActive => exact .of_next ((Updates.refl s).log (.replyBool (indexActive s))) h
  | fdcTick => exact .of_next ((Updates.refl s).tail (.fdcTick s)) h
  | slice => exact sliceStep_updates (by simp [powers]) (by simp [powers]) (by simp [powers]) h
  | cpuPhase => exact cpuPhase_updates (by simp [powers]) (by simp [powers]) h
  | housekeeping => exact .of_next (housekeeping_updates s) h
  | rxPoll => exact .of_next (rxPoll_updates s) h
  | keyPromote => exact .of_next (keyPromote_updates s) h
  | watchdog => exact .of_next (watchdog_updates s) h
  | sliceIncrement => exact .of_next (sliceIncrement_updates (by simp [powers]) s) h
  | renderCheck => exact .of_next (renderCheck_updates s) h
  | frameCheck => exact .of_next (frameCheck_updates (by simp [powers]) s) h
  | boundaryAdvance => exact .of_next (boundaryAdvance_updates s) h
  | stopCheck => exact .of_next (stopCheck_updates s) h
  | run => exact runBlock_updates (by simp [powers]) (by simp [powers]) (by simp [powers]) h
  | reset => exact .of_next ((Updates.refl s).tail (.reset s (by simp [powers]))) h
  | romLoad img => exact loadRom_updates (by simp [powers]) h
  | insert d img => exact insertDisk_updates (by simp [powers]) h
  | eject d => exact ejectDisk_updates (by simp [powers]) h
  | keyPush b => exact .of_next ((Updates.refl s).tail (.kqPush b s)) h
  | txe v => exact .of_next (setTx_updates v s) h
  | stop => exact .of_next ((Updates.refl s).tail (.stop s)) h

end Sys2Proof.Machine
end

section
/-! What every operation leaves, and the invariants every step keeps (10_state.md R22, R29, R38, R41, R48, R49), each
as a property that the basic updates of an operation keep. -/

namespace Sys2Proof.Machine

/-! ### What the basic updates leave -/

section
variable {A : List Power} {s t : State}

theorem Update.params_eq (h : Update A s t) : t.params = s.params := by
  cases h with
  | flag => simp
  | image => simp
  | _ => rfl

theorem Update.rom_eq (hA : .rom ∉ A) (h : Update A s t) : t.rom = s.rom ∧ t.romSize = s.romSize := by
  cases h with
  | flag => simp
  | image => simp
  | rom _ _ _ hrom => exact absurd hrom hA
  | _ => exact ⟨rfl, rfl⟩

theorem Update.drives_eq (hA : .image ∉ A) (h : Update A s t) : t.drive0 = s.drive0 ∧ t.drive1 = s.drive1 := by
  cases h with
  | flag => simp
  | image _ _ _ himage => exact absurd himage hA
  | _ => exact ⟨rfl, rfl⟩

theorem Update.cycles_eq (hc : .clock ∉ A) (hr : .reset ∉ A) (h : Update A s t) : t.cycles = s.cycles := by
  cases h with
  | flag => simp
  | image => simp
  | cycles _ _ hclock => exact absurd hclock hc
  | reset _ hreset => exact absurd hreset hr
  | _ => rfl

theorem Update.cycles_le (hr : .reset ∉ A) (h : Update A s t) : s.cycles ≤ t.cycles := by
  cases h with
  | flag => simp
  | image => simp
  | cycles n => exact Nat.le_add_right s.cycles n
  | reset _ hreset => exact absurd hreset hr
  | _ => exact le_refl _

/-- The slice index is left, or put at 0 by RESET. -/
theorem Update.slice_le (hA : .sliceIndex ∉ A) (h : Update A s t) : t.slice ≤ s.slice := by
  cases h with
  | flag => simp
  | image => simp
  | sliceIndex _ _ hslice => exact absurd hslice hA
  | reset => exact Nat.zero_le _
  | _ => exact le_refl _

theorem Updates.params_eq (h : Updates A s t) : t.params = s.params :=
  h.keeps (P := fun u => u.params = s.params) (fun _ _ hu hp => hu.params_eq.trans hp) rfl

theorem Updates.rom_eq (hA : .rom ∉ A) (h : Updates A s t) : t.rom = s.rom ∧ t.romSize = s.romSize :=
  h.keeps (P := fun u => u.rom = s.rom ∧ u.romSize = s.romSize)
    (fun _ _ hu hp => ⟨(hu.rom_eq hA).1.trans hp.1, (hu.rom_eq hA).2.trans hp.2⟩) ⟨rfl, rfl⟩

theorem Updates.drives_eq (hA : .image ∉ A) (h : Updates A s t) : t.drive0 = s.drive0 ∧ t.drive1 = s.drive1 :=
  h.keeps (P := fun u => u.drive0 = s.drive0 ∧ u.drive1 = s.drive1)
    (fun _ _ hu hp => ⟨(hu.drives_eq hA).1.trans hp.1, (hu.drives_eq hA).2.trans hp.2⟩) ⟨rfl, rfl⟩

theorem Updates.cycles_eq (hc : .clock ∉ A) (hr : .reset ∉ A) (h : Updates A s t) : t.cycles = s.cycles :=
  h.keeps (P := fun u => u.cycles = s.cycles) (fun _ _ hu hp => (hu.cycles_eq hc hr).trans hp) rfl

theorem Updates.cycles_le (hr : .reset ∉ A) (h : Updates A s t) : s.cycles ≤ t.cycles :=
  h.keeps (P := fun u => s.cycles ≤ u.cycles) (fun _ _ hu hp => hp.trans (hu.cycles_le hr)) (le_refl _)

theorem Updates.slice_le (hA : .sliceIndex ∉ A) (h : Updates A s t) : t.slice ≤ s.slice :=
  h.keeps (P := fun u => u.slice ≤ s.slice) (fun _ _ hu hp => (hu.slice_le hA).trans hp) (le_refl _)

end

/-! ### The powers of the operations -/

theorem rom_mem_powers {i : Instr} (h : .rom ∈ powers i) : ∃ img, i = .romLoad img := by
  cases i <;> simp [powers] at h ⊢

theorem image_mem_powers {i : Instr} (h : .image ∈ powers i) :
    (∃ d o, i = .insert d o) ∨ (∃ d, i = .eject d) ∨ i = .cpuPhase ∨ i = .slice ∨ i = .run := by
  cases i <;> simp [powers] at h ⊢

theorem clock_mem_powers {i : Instr} (h : .clock ∈ powers i) : i = .cpuPhase ∨ i = .slice ∨ i = .run := by
  cases i <;> simp [powers] at h ⊢

theorem reset_mem_powers {i : Instr} (h : .reset ∈ powers i) : i = .reset := by
  cases i <;> simp [powers] at h ⊢

theorem stream_mem_powers {i : Instr} (h : .stream ∈ powers i) : ∃ bytes, i = .loadStream bytes := by
  cases i <;> simp [powers] at h ⊢

theorem sliceIndex_mem_powers {i : Instr} (h : .sliceIndex ∈ powers i) :
    i = .sliceIncrement ∨ i = .frameCheck ∨ i = .slice ∨ i = .run := by
  cases i <;> simp [powers] at h ⊢

/-! ### What every operation leaves -/

/-- Settles O50: no basic update changes the parameters, and only one with ROM_LOAD's power changes the ROM. -/
theorem romAndParametersStayFixed : Obligations.RomAndParametersStayFixed := by
  intro i s t h
  refine ⟨(exec_updates h).params_eq, fun hload => (exec_updates h).rom_eq fun hrom => ?_⟩
  obtain ⟨img, hi⟩ := rom_mem_powers hrom
  exact hload img hi

/-- Settles O35: only an update with the power over the drives changes an image. -/
theorem imagesChangeOnlyByTheHost : Obligations.ImagesChangeOnlyByTheHost := by
  intro i s t h hinsert heject hphase hslice hrun
  refine (exec_updates h).drives_eq fun himage => ?_
  rcases image_mem_powers himage with ⟨d, o, hi⟩ | ⟨d, hi⟩ | hi | hi | hi
  · exact hinsert d o hi
  · exact heject d hi
  · exact hphase hi
  · exact hslice hi
  · exact hrun hi

/-- Settles O49: only an update with the CPU's clock advances `cycles`, and only RESET's turns it back. -/
theorem onlyCpuStepsAdvanceCycles : Obligations.OnlyCpuStepsAdvanceCycles := by
  intro i s t h
  refine ⟨fun hphase hslice hrun hreset => (exec_updates h).cycles_eq (fun hclock => ?_)
    (fun hmem => hreset (reset_mem_powers hmem)),
    fun hreset => (exec_updates h).cycles_le fun hmem => hreset (reset_mem_powers hmem)⟩
  rcases clock_mem_powers hclock with hi | hi | hi
  · exact hphase hi
  · exact hslice hi
  · exact hrun hi

/-! ### The interrupt line -/

/-- Every update that changes the encoder's inputs ends with a recompute, and no other one calls the line. -/
theorem Update.keeps_lineDriven {A : List Power} {s t : State} (h : Update A s t) (hs : LineDriven s) :
    LineDriven t := by
  cases h with
  | log e _ he => exact lineDriven_congr hs (he s.trace) rfl
  | recompute => exact lineDriven_recompute _
  | flag => exact lineDriven_recompute _
  | mask => exact lineDriven_recompute _
  | reset => exact lineDriven_recompute _
  | image d o =>
    exact lineDriven_congr hs (by simp) (requests_congr (by simp) (by simp) (by simp) (by simp) (by simp))
  | _ => exact lineDriven_congr hs rfl rfl

theorem exec_keeps_lineDriven {i : Instr} {s t : State} (h : exec i s = .next t) (hs : LineDriven s) :
    LineDriven t :=
  (exec_updates h).keeps (fun _ _ hu => hu.keeps_lineDriven) hs

/-- A step that goes on leaves the state, or runs an operation on it with some of the pending bytes taken. -/
theorem step_eq_next_exec {s t : State} (h : step s = .next t) :
    t = s ∨ ∃ i rest, exec i { s with input := rest } = .next t ∧ sliceStartOk i s = true ∧
      i.wellFormed s.params = true := by
  rcases step_eq_next h with ⟨i, u, hturn, hexec⟩ | ⟨_, rfl⟩
  · right
    obtain ⟨_, _, _, _, hstart, ⟨_, _, rfl, rfl⟩ | ⟨b, bs, rest, _, hdec, rfl⟩⟩ := turn_eq_exec hturn
    · exact ⟨.slice, u.input, hexec, hstart, rfl⟩
    · exact ⟨i, rest, hexec, hstart, decode_wellFormed hdec⟩
  · exact .inl rfl

/-- Settles O9: every basic update keeps the line driven. -/
theorem everyStepKeepsTheLineDriven : Obligations.EveryStepKeepsTheLineDriven := by
  intro s t hs h
  rcases step_eq_next_exec h with rfl | ⟨i, rest, hexec, _, _⟩
  · exact hs
  · exact exec_keeps_lineDriven hexec (lineDriven_congr hs rfl rfl)

/-! ### The floppy controller's invariants -/

/-- What holds of the controller in either mode: R49 item 3, the bound on `rot` of item 5, and R35's bounds. -/
structure FdcBounds (p : Params) (f : Fdc) : Prop where
  unused : ∀ j, j = 2 ∨ j = 3 ∨ j = 5 ∨ j = 6 → f.status.getLsbD j = false
  rot : f.rot < p.indexPeriod
  cursorLe : f.cursor ≤ f.len
  lenLe : f.len ≤ 1024
  buf : ArrayOk 1024 f.buf

/-- All of the controller's invariants: with what each mode says of the status and the cursor (R49 items 1, 2). -/
structure FdcOk (p : Params) (f : Fdc) : Prop extends FdcBounds p f where
  streaming : f.mode = .streamingRead → f.cursor < f.len ∧ f.status.getLsbD 1 = true
  idle : f.mode = .idle → f.status.getLsbD 1 = false ∧ f.status.getLsbD 0 = false

/-- The model's check of R49 items 1 to 3, bit by bit. -/
theorem fdcInvariants_iff (f : Fdc) : fdcInvariants f = true ↔
    (f.mode = .streamingRead → f.cursor < f.len ∧ f.status.getLsbD 1 = true) ∧
    (f.mode = .idle → f.status.getLsbD 1 = false ∧ f.status.getLsbD 0 = false) ∧
    ∀ j, j = 2 ∨ j = 3 ∨ j = 5 ∨ j = 6 → f.status.getLsbD j = false := by
  unfold fdcInvariants
  cases f.mode <;> simp [and_assoc]

section
variable {p : Params} {s : State}

/-- ENTER_IDLE meets what Idle asks, whatever the mode was (R211). -/
theorem fdcOk_enterIdle (h : FdcBounds p s.fdc) : FdcOk p (enterIdle s).fdc where
  streaming hm := by cases hm
  idle _ := ⟨(enterIdle_bit s 1).trans (if_pos (.inr rfl)), (enterIdle_bit s 0).trans (if_pos (.inl rfl))⟩
  unused j hj := by
    rw [enterIdle_bit, if_neg (by omega)]
    exact h.unused j hj
  rot := h.rot
  cursorLe := h.cursorLe
  lenLe := h.lenLe
  buf := h.buf

/-- The error bits may be set or cleared and BUSY cleared in either mode. -/
theorem fdcOk_setStatus {i : Nat} {v : Bool} (hi : i = bitSeekErr ∨ i = bitNotReady ∨ i = bitBusy ∧ v = false)
    (h : FdcOk p s.fdc) : FdcOk p (setStatus i v s).fdc := by
  have hi' : i = 4 ∨ i = 7 ∨ i = 0 := hi.imp_right (.imp_right And.left)
  have hbit : ∀ j, j ≠ i → (setStatus i v s).fdc.status.getLsbD j = s.fdc.status.getLsbD j := fun j hj =>
    (setStatus_bit i v s j (by omega)).trans (if_neg hj)
  have hdrq : (setStatus i v s).fdc.status.getLsbD 1 = s.fdc.status.getLsbD 1 := hbit 1 (by omega)
  have hbusy (h0 : s.fdc.status.getLsbD 0 = false) : (setStatus i v s).fdc.status.getLsbD 0 = false := by
    rcases hi with rfl | rfl | ⟨rfl, rfl⟩
    · exact (hbit 0 (by decide)).trans h0
    · exact (hbit 0 (by decide)).trans h0
    · exact (setStatus_bit 0 false s 0 (by decide)).trans (if_pos rfl)
  exact { h with
    unused := fun j hj => (hbit j (by omega)).trans (h.unused j hj)
    streaming := fun hm => ⟨(h.streaming hm).1, hdrq.trans (h.streaming hm).2⟩
    idle := fun hm => ⟨hdrq.trans (h.idle hm).1, hbusy (h.idle hm).2⟩ }

theorem fdcOk_loadStream {m : Memory} {n : Nat} (hm : Memory.wf m = true) (hpos : 0 < n) (hle : n ≤ 1024)
    (h : FdcOk p s.fdc) : FdcOk p (loadStream m n s).fdc where
  streaming _ := ⟨hpos, (loadStream_bit m n s 1).trans (if_pos (.inr rfl))⟩
  idle hidle := by cases hidle
  unused j hj := by
    rw [loadStream_bit, if_neg (by omega)]
    exact h.unused j hj
  rot := h.rot
  cursorLe := Nat.zero_le n
  lenLe := hle
  buf := ⟨wf_overlay hm h.buf.1 n, below_overlay hle h.buf.2⟩

/-- A data read takes one byte of the stream, and the last byte ends it (R217). -/
theorem fdcOk_fdcDataAdvance (h : FdcOk p s.fdc) : FdcOk p (fdcDataAdvance s).fdc := by
  rcases fdcDataAdvance_cases s with ⟨_, e⟩ | ⟨_, hlast, e⟩ | ⟨hm, hmore, e⟩
  · rwa [e]
  · rw [e]
    exact fdcOk_enterIdle { h.toFdcBounds with cursorLe := hlast.le }
  · obtain ⟨hlt, hdrq⟩ := h.streaming hm
    have hlt' : s.fdc.cursor + 1 < s.fdc.len := by omega
    rw [e]
    exact { h with
      streaming := fun _ => ⟨hlt', hdrq⟩
      cursorLe := hlt'.le }

theorem fdcOk_fdcTick (h : FdcOk s.params s.fdc) : FdcOk s.params (fdcTick s).fdc :=
  { h with rot := Nat.mod_lt _ (Nat.zero_lt_of_lt h.rot) }

end

/-! ### The invariants -/

/-- `Inv` without the bound on the slice index. -/
structure Core (s : State) : Prop where
  params : paramsOk s.params = true
  fdc : FdcOk s.params s.fdc
  psgLatch : s.psgLatch.toNat ≤ 15
  kbdIdle : s.kbdIdle < s.params.watchdogSlices
  ram : ArrayOk 65536 s.ram
  rom : ArrayOk 8192 s.rom
  kq : ArrayOk 256 s.kq
  drive0 : ImageOk s.drive0
  drive1 : ImageOk s.drive1

theorem invariants_iff (s : State) : invariants s = true ↔
    fdcInvariants s.fdc = true ∧ s.psgLatch.toNat ≤ 15 ∧ s.slice ≤ s.params.slicesPerFrame ∧
      s.kbdIdle < s.params.watchdogSlices ∧ s.fdc.rot < s.params.indexPeriod := by
  simp only [invariants, Bool.and_eq_true, decide_eq_true_eq, and_assoc]

theorem inv_iff (s : State) : Inv s ↔ Core s ∧ s.slice ≤ s.params.slicesPerFrame := by
  constructor
  · intro h
    obtain ⟨hfdc, hlatch, hslice, hidle, hrot⟩ := (invariants_iff s).1 h.checks
    obtain ⟨hstream, hid, hunused⟩ := (fdcInvariants_iff s.fdc).1 hfdc
    exact ⟨⟨h.params, ⟨⟨hunused, hrot, h.cursorLe, h.lenLe, h.buf⟩, hstream, hid⟩, hlatch, hidle, h.ram, h.rom, h.kq,
      h.drive0, h.drive1⟩, hslice⟩
  · rintro ⟨h, hslice⟩
    have hfdc := (fdcInvariants_iff s.fdc).2 ⟨h.fdc.streaming, h.fdc.idle, h.fdc.unused⟩
    exact ⟨h.params, (invariants_iff s).2 ⟨hfdc, h.psgLatch, hslice, h.kbdIdle, h.fdc.rot⟩, h.fdc.cursorLe,
      h.fdc.lenLe, h.ram, h.rom, h.fdc.buf, h.kq, h.drive0, h.drive1⟩

/-- The four counts of the parameters are at least 1, and P_INIT_RAM is canonical (R8). -/
theorem paramsOk_bounds {p : Params} (h : paramsOk p = true) :
    0 < p.indexPeriod ∧ 0 < p.slicesPerFrame ∧ 0 < p.watchdogSlices ∧ ArrayOk 65536 p.initRam := by
  have hpos : ∀ n, positive n = true → 0 < n := fun n hn => by
    cases n with
    | zero => cases hn
    | succ n => exact n.succ_pos
  simp only [paramsOk, Bool.and_eq_true] at h
  obtain ⟨⟨⟨⟨⟨⟨_, hindex⟩, _⟩, hslices⟩, hwatchdog⟩, hwf⟩, hbelow⟩ := h
  exact ⟨hpos _ hindex, hpos _ hslices, hpos _ hwatchdog, hwf, hbelow⟩

/-- The controller at its reset value is Idle with an empty buffer (R320). -/
theorem fdcOk_reset {p : Params} (h : 0 < p.indexPeriod) : FdcOk p Fdc.reset where
  streaming hm := by cases hm
  idle _ := ⟨rfl, rfl⟩
  unused j _ := BitVec.getLsbD_zero
  rot := h
  cursorLe := le_refl 0
  lenLe := Nat.zero_le _
  buf := ⟨rfl, rfl⟩

theorem Core.reset {s : State} (h : Core s) : Core (resetBlock s) := by
  obtain ⟨hindex, _, hwatchdog, hram⟩ := paramsOk_bounds h.params
  exact ⟨h.params, fdcOk_reset hindex, Nat.zero_le 15, hwatchdog, hram, h.rom, ⟨rfl, rfl⟩, h.drive0, h.drive1⟩

theorem Core.setDriveImage {s : State} (h : Core s) (d : DriveId) {o : Option Image} (ho : ImageOk o) :
    Core (setDriveImage d o s) := by
  cases d with
  | d0 => exact { h with drive0 := ho }
  | d1 => exact { h with drive1 := ho }

/-- Every basic update keeps the invariants, but the one of LOAD_STREAM, which needs a length of R228. -/
theorem Update.keeps_core {A : List Power} {s t : State} (hA : .stream ∉ A) (h : Update A s t) (hs : Core s) :
    Core t := by
  cases h with
  | flag f => cases f <;> exact { hs with }
  | ram a v => exact { hs with ram := ⟨wf_write hs.ram.1 _ v, below_write hs.ram.2 a.isLt v⟩ }
  | psgLatch _ _ hv => exact { hs with psgLatch := hv }
  | enterIdle => exact { hs with fdc := fdcOk_enterIdle hs.fdc.toFdcBounds }
  | setStatus _ _ _ hi => exact { hs with fdc := fdcOk_setStatus hi hs.fdc }
  | fdcRegisters => exact { hs with fdc := { hs.fdc with } }
  | fdcDataAdvance => exact { hs with fdc := fdcOk_fdcDataAdvance hs.fdc }
  | fdcTick => exact { hs with fdc := fdcOk_fdcTick hs.fdc }
  | loadStream m n _ hm hpos hle =>
    exact { hs with fdc := fdcOk_loadStream (hm hs.drive0 hs.drive1) hpos hle hs.fdc }
  | kqPush b => exact { hs with kq := ⟨wf_write hs.kq.1 _ b, below_write hs.kq.2 s.kqWr.isLt b⟩ }
  | kbdIdle _ _ hn => exact { hs with kbdIdle := hn hs.kbdIdle }
  | image d _ _ _ ho => exact hs.setDriveImage d ho
  | rom _ _ _ _ hm => exact { hs with rom := hm hs.rom }
  | anyStream _ _ hstream => exact absurd hstream hA
  | reset => exact hs.reset
  | _ => exact { hs with }

/-- A stream that can be issued has 6, 38 or 1024 bytes (R228). -/
theorem wellFormed_loadStream {p : Params} {bytes : List Byte} (h : (Instr.loadStream bytes).wellFormed p = true) :
    0 < bytes.length ∧ bytes.length ≤ 1024 := by
  simp only [Instr.wellFormed, streamLengthOk, Bool.or_eq_true, beq_iff_eq] at h
  omega

theorem exec_keeps_core {i : Instr} {s t : State} (h : exec i s = .next t) (hwf : i.wellFormed s.params = true)
    (hs : Core s) : Core t := by
  by_cases hstream : .stream ∈ powers i
  · obtain ⟨bytes, rfl⟩ := stream_mem_powers hstream
    obtain ⟨hpos, hle⟩ := wellFormed_loadStream hwf
    have ht : loadStream (Memory.ofBytes bytes) bytes.length s = t := Host.Outcome.next.inj h
    subst ht
    exact { hs with fdc := fdcOk_loadStream (wf_ofBytes bytes) hpos hle hs.fdc }
  · exact (exec_updates h).keeps (fun _ _ hu => hu.keeps_core hstream) hs

/-! ### The slice index -/

/-- The frame check puts the index after the last slice back to 0 (R271). -/
theorem frameCheck_slice (s : State) :
    (frameCheck s).slice = if s.slice = s.params.slicesPerFrame then 0 else s.slice := by
  rcases frameCheck_cases s with ⟨hne, e⟩ | ⟨heq, _, e⟩ | ⟨heq, _, e⟩
  · rw [e, if_neg hne]
  · rw [e, if_pos heq]
    simp
  · rw [e, if_pos heq]
    simp

@[simp] theorem renderCheck_slice (s : State) : (renderCheck s).slice = s.slice := by rw [renderCheck_frame]
@[simp] theorem renderCheck_params (s : State) : (renderCheck s).params = s.params := by rw [renderCheck_frame]
@[simp] theorem housekeeping_slice (s : State) : (housekeeping s).slice = s.slice := by rw [housekeeping_frame]
@[simp] theorem housekeeping_params (s : State) : (housekeeping s).params = s.params := by rw [housekeeping_frame]
@[simp] theorem stopCheck_slice (s : State) : (stopCheck s).slice = s.slice := by rw [stopCheck_frame]
@[simp] theorem boundaryAdvance_slice (s : State) : (boundaryAdvance s).slice = s.slice := rfl
@[simp] theorem sliceIncrement_slice (s : State) : (sliceIncrement s).slice = s.slice + 1 := rfl
@[simp] theorem sliceIncrement_params (s : State) : (sliceIncrement s).params = s.params := rfl

@[simp] theorem runOn_slice (s : State) : (runOn s).slice = s.slice := by
  unfold runOn
  split <;> rfl

/-- What a slice makes of its index (R269, R271). -/
theorem sliceTail_slice (s : State) :
    (sliceTail s).slice = if s.slice + 1 = s.params.slicesPerFrame then 0 else s.slice + 1 := by
  simp [sliceTail, frameCheck_slice]

theorem sliceStep_params {s t : State} (h : sliceStep s = .next t) : t.params = s.params :=
  (exec_updates (i := .slice) h).params_eq

/-- A slice that starts inside the frame ends inside it: its CPU phase leaves the index, its tail wraps it. -/
theorem sliceStep_keeps_betweenSlices {s t : State} (h : sliceStep s = .next t) (hs : BetweenSlices s) :
    BetweenSlices t := by
  have hparams : t.params = s.params := sliceStep_params h
  obtain ⟨u, hphase, rfl, _⟩ := sliceStep_eq_next h
  have hupdates : Updates [.image, .clock] s u := exec_updates (i := .cpuPhase) hphase
  have hle : u.slice ≤ s.slice := hupdates.slice_le (by simp)
  unfold BetweenSlices at *
  rw [hparams, sliceTail_slice, hupdates.params_eq]
  split <;> omega

/-- Settles O43, by what the CPU phase leaves of the index and what the slice's tail makes of it. -/
theorem sliceStaysInsideTheFrame : Obligations.SliceStaysInsideTheFrame :=
  fun _ _ _ hs h => sliceStep_keeps_betweenSlices h hs

/-- The bound on the slice index, over every operation the step may begin: of the four that move the index, the frame
check only wraps it, and the others begin inside the frame (R269, log entry 29). -/
theorem exec_slice_le {i : Instr} {s t : State} (h : exec i s = .next t) (hstart : sliceStartOk i s = true)
    (hs : s.slice ≤ s.params.slicesPerFrame) : t.slice ≤ t.params.slicesPerFrame := by
  have hparams : t.params = s.params := (exec_updates h).params_eq
  rw [hparams]
  by_cases hA : .sliceIndex ∈ powers i
  · rcases sliceIndex_mem_powers hA with rfl | rfl | rfl | rfl
    · have hin : s.slice < s.params.slicesPerFrame := sliceStartOk_iff.1 hstart rfl
      obtain rfl : sliceIncrement s = t := Host.Outcome.next.inj h
      exact hin
    · obtain rfl : frameCheck s = t := Host.Outcome.next.inj h
      rw [frameCheck_slice]
      split <;> omega
    · have hin := sliceStep_keeps_betweenSlices h (sliceStartOk_iff.1 hstart rfl)
      exact hparams ▸ hin.le
    · obtain ⟨_, u, hslice, rfl⟩ := runBlock_eq_next h
      have hin := sliceStep_keeps_betweenSlices hslice (sliceStartOk_iff.1 hstart rfl)
      rw [runOn_slice, ← sliceStep_params hslice]
      exact hin.le
  · exact ((exec_updates h).slice_le hA).trans hs

/-- Settles O55: every basic update keeps the invariants but for the slice index, and the step begins an operation
that moves the index only where it may. -/
theorem everyStepKeepsTheInvariants : Obligations.EveryStepKeepsTheInvariants := by
  intro s t hs h
  rcases step_eq_next_exec h with rfl | ⟨i, rest, hexec, hstart, hwf⟩
  · exact hs
  · obtain ⟨hcore, hslice⟩ := (inv_iff s).1 hs
    have hcore' : Core { s with input := rest } := { hcore with }
    exact (inv_iff t).2 ⟨exec_keeps_core hexec hwf hcore', exec_slice_le hexec hstart hslice⟩

end Sys2Proof.Machine
end

section
/-! The keyboard queue (10_state.md R40): a ring of 256 bytes between two indices that wrap, first in, first out. -/

namespace Sys2Proof.Machine

/-! ### Pushes -/

/-- The state after a list of pushes. -/
def kqPushAll : List Byte → State → State
  | [], s => s
  | b :: bs, s => kqPushAll bs (kqPush b s)

theorem execAll_keyPush (bs : List Byte) (s : State) :
    execAll (bs.map Instr.keyPush) s = .next (kqPushAll bs s) := by
  induction bs generalizing s with
  | nil => rfl
  | cons b bs ih => exact ih (kqPush b s)

/-- Pushes change the ring and its write index alone (R279). -/
theorem kqPushAll_frame (bs : List Byte) (s : State) :
    kqPushAll bs s = { s with kq := (kqPushAll bs s).kq, kqWr := (kqPushAll bs s).kqWr } := by
  induction bs generalizing s with
  | nil => rfl
  | cons b bs ih =>
    rw [kqPushAll, ih (kqPush b s)]
    rfl

/-- A list of pushes advances the write index by its length, modulo 256. -/
theorem kqPushAll_kqWr (bs : List Byte) (s : State) :
    (kqPushAll bs s).kqWr = s.kqWr + BitVec.ofNat 8 bs.length := by
  induction bs generalizing s with
  | nil => simp [kqPushAll]
  | cons b bs ih =>
    rw [kqPushAll, ih, kqPush_kqWr, List.length_cons]
    bv_omega

/-- An index advanced by 1 to 255 is another one: the queue does not read as empty (R40). -/
theorem ne_add_of_lt_256 (i : Byte) {n : Nat} (hpos : 1 ≤ n) (hlt : n ≤ 255) : i ≠ i + BitVec.ofNat 8 n := by
  bv_omega

/-- Settles O47: the write index moves away from the read index and meets it again at the 256th push (R331). -/
theorem queueReadsEmptyAfter256Pushes : Obligations.QueueReadsEmptyAfter256Pushes := by
  intro bs s hempty
  have hframe := kqPushAll_frame bs s
  have hrd : (kqPushAll bs s).kqRd = s.kqRd := by rw [hframe]
  have hkey : (kqPushAll bs s).key = s.key := by rw [hframe]
  refine ⟨kqPushAll bs s, execAll_keyPush bs s, hrd, hkey, fun hpos hlt => ?_, fun hlen => ?_⟩
  · rw [hrd, kqPushAll_kqWr, ← hempty]
    exact ne_add_of_lt_256 s.kqRd hpos hlt
  · rw [hrd, kqPushAll_kqWr, ← hempty, hlen]
    exact (BitVec.add_zero s.kqRd).symm

/-! ### First in, first out -/

/-- The ring holds the bytes of a list, in order, from the read index up to the write index. -/
def Queued (m : Memory) (rd wr : Byte) : List Byte → Prop
  | [] => rd = wr
  | b :: bs => Memory.read m rd.toNat = b ∧ Queued m (rd + 1) wr bs

theorem Queued.kqWr_eq {m : Memory} {rd wr : Byte} {bs : List Byte} (h : Queued m rd wr bs) :
    wr = rd + BitVec.ofNat 8 bs.length := by
  induction bs generalizing rd with
  | nil => simpa using (show rd = wr from h).symm
  | cons b bs ih =>
    rw [ih h.2, List.length_cons]
    bv_omega

theorem Queued.ne {m : Memory} {rd wr b : Byte} {bs : List Byte} (h : Queued m rd wr (b :: bs))
    (hlen : bs.length ≤ 254) : rd ≠ wr := by
  rw [h.kqWr_eq]
  exact ne_add_of_lt_256 rd (Nat.le_add_left 1 _) (Nat.succ_le_succ hlen)

/-- A push puts its byte at the end: while the ring has room it overwrites no byte that waits. -/
theorem Queued.push {m : Memory} (hwf : Memory.wf m = true) {rd wr : Byte} {bs : List Byte}
    (h : Queued m rd wr bs) (hlen : bs.length ≤ 254) (b : Byte) :
    Queued (Memory.write m wr.toNat b) rd (wr + 1) (bs ++ [b]) := by
  induction bs generalizing rd with
  | nil =>
    obtain rfl : rd = wr := h
    exact ⟨read_write_same hwf _ b, rfl⟩
  | cons c bs ih =>
    simp only [List.length_cons] at hlen
    have hne : rd ≠ wr := h.ne (by omega)
    refine ⟨?_, ih h.2 (by omega)⟩
    rw [read_write_other _ _ fun e => hne (BitVec.eq_of_toNat_eq e)]
    exact h.1

theorem kqPushAll_queued {q bs : List Byte} {s : State} (hwf : Memory.wf s.kq = true)
    (h : Queued s.kq s.kqRd s.kqWr q) (hlen : q.length + bs.length ≤ 255) :
    Queued (kqPushAll bs s).kq s.kqRd (kqPushAll bs s).kqWr (q ++ bs) := by
  induction bs generalizing q s with
  | nil => simpa [kqPushAll] using h
  | cons b bs ih =>
    simp only [List.length_cons] at hlen
    have hpush : Queued (kqPush b s).kq (kqPush b s).kqRd (kqPush b s).kqWr (q ++ [b]) := h.push hwf (by omega) b
    have hall := ih (s := kqPush b s) (wf_write hwf _ b) hpush (by simp; omega)
    rwa [List.append_assoc] at hall

/-- A keyboard read of a queue that is not empty replies its first byte, takes it and clears `key` (R172). -/
theorem exec_kbdRd_of_not_empty {s : State} (h : s.kqRd ≠ s.kqWr) :
    exec .kbdRd s = .next (reply (kqHead s) (flagClear .key (kqPop s))) := by
  have hne : kqEmpty s = false := beq_eq_false_iff_ne.2 h
  exact congrArg Host.Outcome.next (if_neg (by simp [hne]))

/-- So it takes the first of the queued bytes, and draws no answer. -/
theorem exec_kbdRd_queued {s : State} {b : Byte} {bs : List Byte} (h : Queued s.kq s.kqRd s.kqWr (b :: bs))
    (hlen : bs.length ≤ 254) :
    ∃ t, exec .kbdRd s = .next t ∧ Queued t.kq t.kqRd t.kqWr bs ∧ replies t.trace = b :: replies s.trace ∧
      t.answers = s.answers := by
  have hne : s.kqRd ≠ s.kqWr := h.ne hlen
  obtain ⟨hhead, htail⟩ : kqHead s = b ∧ Queued s.kq (s.kqRd + 1) s.kqWr bs := h
  refine ⟨_, exec_kbdRd_of_not_empty hne, ?_, ?_, ?_⟩
  · simpa using htail
  · rw [hhead, reply_trace, flagClear_eq]
    rfl
  · simp

/-- As many reads as bytes are queued reply them all, in order. -/
theorem repeatExec_kbdRd {bs : List Byte} {s : State} (h : Queued s.kq s.kqRd s.kqWr bs) (hlen : bs.length ≤ 255) :
    ∃ u, repeatExec bs.length .kbdRd s = .next u ∧ replies u.trace = bs.reverse ++ replies s.trace ∧
      u.kqRd = u.kqWr ∧ u.answers = s.answers := by
  induction bs generalizing s with
  | nil => exact ⟨s, rfl, rfl, h, rfl⟩
  | cons b bs ih =>
    simp only [List.length_cons] at hlen
    obtain ⟨t, hread, htail, hreply, hkept⟩ := exec_kbdRd_queued h (by omega)
    obtain ⟨u, hu, hreplies, hempty, hanswers⟩ := ih htail (by omega)
    refine ⟨u, ?_, ?_, hempty, hanswers.trans hkept⟩
    · rw [List.length_cons, repeatExec, hread]
      exact hu
    · rw [hreplies, hreply]
      simp

/-- Settles O48: the pushes leave the bytes queued in order, and as many reads take them. -/
theorem queueReturnsBytesInOrder : Obligations.QueueReturnsBytesInOrder := by
  intro bs s hempty hwf hlen
  have hframe := kqPushAll_frame bs s
  have hrd : (kqPushAll bs s).kqRd = s.kqRd := by rw [hframe]
  have htrace : (kqPushAll bs s).trace = s.trace := by rw [hframe]
  have hanswers : (kqPushAll bs s).answers = s.answers := by rw [hframe]
  have hqueued : Queued (kqPushAll bs s).kq (kqPushAll bs s).kqRd (kqPushAll bs s).kqWr bs := by
    rw [hrd]
    exact kqPushAll_queued (q := []) hwf hempty (by simpa using hlen)
  obtain ⟨u, hu, hreplies, hend, hsame⟩ := repeatExec_kbdRd hqueued hlen
  exact ⟨kqPushAll bs s, u, execAll_keyPush bs s, hu, htrace ▸ hreplies, hend, hsame.trans hanswers⟩

end Sys2Proof.Machine
end

section
/-! The state after reset (10_state.md R20) and the machine that stops (R46, 43_scheduler.md R274, 60_exceptions.md
R293). -/

namespace Sys2Proof.Machine

/-! ### The state after reset -/

/-- Settles O53: the values stand in `State.reset`; the empty arrays read blank. -/
theorem resetStateHasTheSpecsValues : Obligations.ResetStateHasTheSpecsValues := by
  refine ⟨rfl, rfl, rfl, rfl, rfl, rfl, rfl, rfl, rfl, rfl, rfl, rfl, rfl, rfl, rfl, ?_, rfl, rfl, rfl, rfl, ?_, rfl,
    rfl, rfl, rfl, rfl, rfl, rfl, rfl⟩
  · exact read_nil
  · exact read_nil

/-- The default parameters are well-formed, whatever the opaque values of Config are (R8). -/
theorem paramsOk_default : paramsOk defaultParams = true := rfl

theorem core_stateReset : Core State.reset where
  params := paramsOk_default
  fdc := fdcOk_reset (Nat.succ_pos Config.indexPeriodPred)
  psgLatch := Nat.zero_le 15
  kbdIdle := Nat.succ_pos Config.watchdogSlicesPred
  ram := ⟨rfl, rfl⟩
  rom := ⟨rfl, rfl⟩
  kq := ⟨rfl, rfl⟩
  drive0 := trivial
  drive1 := trivial

/-- No request is up after reset (R320). -/
theorem requests_stateReset : requests State.reset = 0 := rfl

/-- With no gated request the line is inactive, the vector 0 and the port-B mirror 0 (R132, R133, R94). -/
theorem outputs_of_requests_eq_zero {s : State} (h : requests s = 0) :
    active s = false ∧ vector s = 0 ∧ portb s = 0x00 := by
  have hactive : active s = false := by simp [active, h, groupActive, extReq]
  have hvector : vector s = 0 := by simp [vector, h]
  exact ⟨hactive, hvector, by rw [portb, hactive, hvector]; rfl⟩

/-- Settles O54: the base case of the step lemmas, and with no request up the outputs are inactive. -/
theorem resetMeetsEveryInvariant : Obligations.ResetMeetsEveryInvariant := by
  obtain ⟨hactive, hvector, hportb⟩ := outputs_of_requests_eq_zero requests_stateReset
  have hline : LineDriven State.reset := by
    rw [LineDriven, hactive, hvector]
    rfl
  exact ⟨(inv_iff _).2 ⟨core_stateReset, Nat.zero_le _⟩, Nat.succ_pos Config.slicesPerFramePred, hline, hactive,
    hvector, hportb⟩

/-! ### The machine that stops -/

/-- A faulted machine's turn is a Fatal abort (R46). -/
theorem turn_of_faulted {s : State} (h : s.faulted = true) : turn s = .fatal .alreadyFaulted := if_pos h

/-- An ended run's turn is to stay (R274). -/
theorem turn_of_ended {s : State} (hfault : s.faulted = false) (hparams : paramsOk s.params = true)
    (hrun : s.runState = .ended) : turn s = .idle := by
  simp [turn, hfault, hparams, hrun]

/-- The invariants do not read the pending bytes: a state that breaks one is a Fatal abort before any operation
(R49, R293). -/
theorem checked_of_not_invariants {i : Instr} {s : State} (h : invariants s = false) :
    checked i s = .fatal .invariantBroken := by
  simp [checked, h]

theorem step_of_turn_fatal {s : State} {r : FatalReason} (h : turn s = .fatal r) : step s = raiseFatal r s := by
  simp only [step, h]

theorem step_of_turn_idle {s : State} (h : turn s = .idle) : step s = .next s := by
  simp only [step, h]

/-- Settles O57: in each of the three cases the turn is no operation. -/
theorem faultedAndEndedMachinesStop : Obligations.FaultedAndEndedMachinesStop := by
  intro s
  refine ⟨fun hfault => step_of_turn_fatal (turn_of_faulted hfault),
    fun hfault hparams hrun => step_of_turn_idle (turn_of_ended hfault hparams hrun), ?_⟩
  intro hfault hparams hrun hbroken b bs i rest hinput hdec
  have hdec' : decode s.params s.input = .ok (i, rest) := by rwa [hinput]
  have hbroken' : invariants { s with input := rest } = false := hbroken
  have hturn : turn s = .fatal .invariantBroken := calc
    turn s = pending s := turn_eq_pending hfault hparams hrun
    _ = checked i { s with input := rest } := pending_of_decode hdec'
    _ = .fatal .invariantBroken := checked_of_not_invariants hbroken'
  exact step_of_turn_fatal hturn

end Sys2Proof.Machine
end

section
/-! Memory and the ROM overlay (20_memory.md): reads see the ROM below its loaded size while ROMDIS is 0 (R60), writes
always reach RAM (R61), and a control write moves the overlay alone (R63, R164). -/

namespace Sys2Proof.Machine

variable {s : State} {a : Addr}

/-! ### The two operations on memory -/

theorem exec_memRd (a : Addr) (s : State) : exec (.memRd a) s = .next (reply (memRead a s) s) := rfl

theorem exec_memWr (a : Addr) (v : Byte) (s : State) : exec (.memWr a v) s = .next (memWrite a v s) := rfl

/-! ### The two sources of a read -/

/-- A read in the ROM window while ROMDIS is 0 is served from ROM (R60). -/
theorem memRead_of_rom (hromdis : ctrlRomdis s.params s.ctrl = false) (hwindow : a.toNat < romBytes s.romSize) :
    memRead a s = Memory.read s.rom a.toNat := if_pos ⟨hromdis, hwindow⟩

/-- A read while ROMDIS is 1 is served from RAM, whatever the address (R60). -/
theorem memRead_of_romdis (hromdis : ctrlRomdis s.params s.ctrl = true) :
    memRead a s = Memory.read s.ram a.toNat := if_neg (by simp [hromdis])

/-- A read leaves the byte it shows at the head of the trace. -/
theorem head_trace_reply_memRead {b : Byte} (h : memRead a s = b) :
    (reply (memRead a s) s).trace.head? = some (.reply b) := by
  rw [h]
  rfl

/-! ### What a control write leaves -/

/-- A control write sets the register and may emit one byte to the sink; nothing else changes (R164, R165). -/
theorem ctrlWrite_frame (v : Byte) (s : State) :
    ctrlWrite v s = { s with ctrl := v, trace := (ctrlWrite v s).trace } := by
  unfold ctrlWrite
  rcases strobeEdge_cases s.ctrl v { s with ctrl := v } with ⟨_, e⟩ | ⟨_, e⟩ <;> rw [e]

@[simp] theorem ctrlWrite_ctrl (v : Byte) (s : State) : (ctrlWrite v s).ctrl = v := by rw [ctrlWrite_frame]
@[simp] theorem ctrlWrite_ram (v : Byte) (s : State) : (ctrlWrite v s).ram = s.ram := by rw [ctrlWrite_frame]
@[simp] theorem ctrlWrite_rom (v : Byte) (s : State) : (ctrlWrite v s).rom = s.rom := by rw [ctrlWrite_frame]
@[simp] theorem ctrlWrite_romSize (v : Byte) (s : State) : (ctrlWrite v s).romSize = s.romSize := by
  rw [ctrlWrite_frame]
@[simp] theorem ctrlWrite_params (v : Byte) (s : State) : (ctrlWrite v s).params = s.params := by
  rw [ctrlWrite_frame]

/-- After a control write with ROMDIS 0 the ROM window shows the ROM (R63). -/
theorem memRead_ctrlWrite_of_rom {c : Byte} (hromdis : ctrlRomdis s.params c = false)
    (hwindow : a.toNat < romBytes s.romSize) : memRead a (ctrlWrite c s) = Memory.read s.rom a.toNat := by
  rw [memRead_of_rom (by simpa using hromdis) (by simpa using hwindow), ctrlWrite_rom]

/-- After a control write with ROMDIS 1 every address shows the RAM (R63). -/
theorem memRead_ctrlWrite_of_romdis {c : Byte} (hromdis : ctrlRomdis s.params c = true) :
    memRead a (ctrlWrite c s) = Memory.read s.ram a.toNat := by
  rw [memRead_of_romdis (by simpa using hromdis), ctrlWrite_ram]

/-! ### The statements -/

/-- Settles O1: the reply is the byte of `memRead`, which chooses between ROM and RAM as R60 says. -/
theorem memReadReturnsOverlayByte : Obligations.MemReadReturnsOverlayByte := exec_memRd

/-- Settles O2, by the laws of reading after a write to an array in canonical form. -/
theorem memWriteTargetsRam : Obligations.MemWriteTargetsRam := fun a v s hwf =>
  ⟨Memory.write s.ram a.toNat v, exec_memWr a v s, read_write_same hwf _ v, fun _ hb => read_write_other _ v hb,
    wf_write hwf _ v⟩

/-- Settles O3: the byte reaches RAM in the first phase and stays there; each phase's read is fixed by the ROMDIS bit
last written. -/
theorem romShadowsWrittenRam : Obligations.RomShadowsWrittenRam := by
  intro a v c1 c0 s hwf hromdis hwindow hset hclear
  have hram : Memory.read (memWrite a v s).ram a.toNat = v := read_write_same hwf _ v
  have hhidden : memRead a (memWrite a v s) = Memory.read s.rom a.toNat := memRead_of_rom hromdis hwindow
  have hshown : memRead a (ctrlWrite c1 (memWrite a v s)) = v :=
    (memRead_ctrlWrite_of_romdis (s := memWrite a v s) hset).trans hram
  have hclear' : ctrlRomdis (ctrlWrite c1 (memWrite a v s)).params c0 = false := by
    rw [ctrlWrite_params]
    exact hclear
  have hagain : memRead a (ctrlWrite c0 (ctrlWrite c1 (memWrite a v s))) = Memory.read s.rom a.toNat := by
    rw [memRead_ctrlWrite_of_rom hclear' (by simpa using hwindow), ctrlWrite_rom, memWrite_rom]
  have hkept : Memory.read (ctrlWrite c0 (ctrlWrite c1 (memWrite a v s))).ram a.toNat = v := by
    rw [ctrlWrite_ram, ctrlWrite_ram, hram]
  exact ⟨⟨_, rfl, head_trace_reply_memRead hhidden⟩, ⟨_, rfl, head_trace_reply_memRead hshown⟩,
    ⟨_, rfl, head_trace_reply_memRead hagain, hkept⟩⟩

end Sys2Proof.Machine
end

section
/-! Encoding (30_encoding.md): decoding inverts encoding (R90, R96), and the packing of the two bytes the block shows,
port B (R94) and the floppy status (R95). -/

namespace Sys2Proof

open Sys2Proof.Machine

/-! ### Ports and command bytes -/

theorem encode_readInstr (p : Params) (h : Handler) : encode p (readInstr h) = encodeRead p h := by
  cases h <;> rfl

theorem encode_writeInstr (p : Params) (h : Handler) (v : Byte) :
    encode p (writeInstr h v) = encodeWrite p h v := by
  cases h <;> rfl

/-- The port the encoder takes for a mapped handler is looked up as that handler (R90). -/
theorem portLookup_encodedPort {p : Params} {h : Handler} (ok : portMapOk p.portMap = true)
    (mapped : handlerMapped p h = true) : portLookup p.portMap ((portOf p.portMap h).getD 0) = some h := by
  obtain ⟨q, hq⟩ := Option.isSome_iff_exists.1 mapped
  rw [hq]
  exact portLookup_portOf ok hq

theorem decode_encodeRead {p : Params} {h : Handler} (ok : portMapOk p.portMap = true)
    (mapped : handlerMapped p h = true) (rest : List Byte) :
    decode p (encodeRead p h ++ rest) = .ok (readInstr h, rest) := by
  rw [encodeRead, List.cons_append, List.singleton_append, decode_portRead, portReadInstr,
    portLookup_encodedPort ok mapped]

theorem decode_encodeWrite {p : Params} {h : Handler} (ok : portMapOk p.portMap = true)
    (mapped : handlerMapped p h = true) (v : Byte) (rest : List Byte) :
    decode p (encodeWrite p h v ++ rest) = .ok (writeInstr h v, rest) := by
  rw [encodeWrite, List.cons_append, List.cons_append, List.singleton_append, decode_portWrite, portWriteInstr,
    portLookup_encodedPort ok mapped]

/-- A port no handler claims decodes to the unmapped read of it (R66, R90). -/
theorem decode_unmappedRead {p : Params} {q : Port} (unmapped : portUnmapped p q = true) (rest : List Byte) :
    decode p (0x03 :: q :: rest) = .ok (.unmappedRd q, rest) := by
  rw [decode_portRead, portReadInstr, Option.isNone_iff_eq_none.1 unmapped]

theorem decode_unmappedWrite {p : Params} {q : Port} (unmapped : portUnmapped p q = true) (v : Byte)
    (rest : List Byte) : decode p (0x04 :: q :: v :: rest) = .ok (.unmappedWr q v, rest) := by
  rw [decode_portWrite, portWriteInstr, Option.isNone_iff_eq_none.1 unmapped]

/-- The operation of a command byte of a class (R96). -/
def classInstr : CmdClass → Byte → Instr
  | .restore => .fdcRestore
  | .readSector => .fdcReadSector
  | .status => .fdcStatus
  | .irqAck => .fdcIrqAck
  | .diag => .fdcDiag
  | .other => .fdcOther

/-- The decoder takes a command byte to the operation of its class. -/
theorem commandInstr_eq_classInstr (p : Params) (c : Byte) :
    commandInstr p c = classInstr (cmdClass p.cmdDecode c) c := by
  unfold commandInstr
  cases cmdClass p.cmdDecode c <;> rfl

theorem decode_command {p : Params} {c : Byte} {k : CmdClass} (hclass : commandOf p c k = true) (rest : List Byte) :
    decode p (0x05 :: c :: rest) = .ok (classInstr k c, rest) := calc
  decode p (0x05 :: c :: rest) = .ok (commandInstr p c, rest) := rfl
  _ = .ok (classInstr k c, rest) := by rw [commandInstr_eq_classInstr, beq_iff_eq.1 hclass]

/-! ### Addresses, flags and streams -/

theorem decode_memRd (p : Params) (a : Addr) (rest : List Byte) :
    decode p (0x01 :: loByte a :: hiByte a :: rest) = .ok (.memRd a, rest) := calc
  decode p (0x01 :: loByte a :: hiByte a :: rest) = .ok (.memRd (hiByte a ++ loByte a), rest) := rfl
  _ = .ok (.memRd a, rest) := by rw [hiByte_append_loByte]

theorem decode_memWr (p : Params) (a : Addr) (v : Byte) (rest : List Byte) :
    decode p (0x02 :: loByte a :: hiByte a :: v :: rest) = .ok (.memWr a v, rest) := calc
  decode p (0x02 :: loByte a :: hiByte a :: v :: rest) = .ok (.memWr (hiByte a ++ loByte a) v, rest) := rfl
  _ = .ok (.memWr a v, rest) := by rw [hiByte_append_loByte]

theorem takeFlag_byteOfFlag (g : Flag) (f : Flag → Instr) (rest : List Byte) :
    takeFlag (byteOfFlag g :: rest) f = .ok (f g, rest) := by
  simp only [takeFlag, take1, flagOfByte_byteOfFlag]

/-- A length of two bytes, the low one first, is read back. -/
theorem toNat_twoBytes {n : Nat} (h : n < 65536) :
    (BitVec.ofNat 8 n).toNat + 256 * (BitVec.ofNat 8 (n / 256)).toNat = n := by
  simp only [BitVec.toNat_ofNat]
  omega

theorem streamLengthOk_iff {xs : List Byte} :
    streamLengthOk xs = true ↔ xs.length = 6 ∨ xs.length = 38 ∨ xs.length = 1024 := by
  simp [streamLengthOk, or_assoc]

theorem takeStream_encoded {xs : List Byte} (hlen : streamLengthOk xs = true) (rest : List Byte) :
    takeStream (BitVec.ofNat 8 xs.length :: BitVec.ofNat 8 (xs.length / 256) :: (xs ++ rest)) =
      .ok (.loadStream xs, rest) := by
  have hlen := streamLengthOk_iff.1 hlen
  simp only [takeStream, take2, toNat_twoBytes (show xs.length < 65536 by omega), if_pos hlen, takeBytes_append]

/-! ### A host's byte array -/

/-- Rising addresses below `n` leave room for at most `n - lo` cells. -/
theorem length_le_of_wfFrom_below {lo n : Nat} {m : Memory} (hlo : lo ≤ n) (hwf : Memory.wfFrom lo m = true)
    (hbelow : Memory.below n m = true) : lo + m.length ≤ n := by
  induction m generalizing lo with
  | nil => exact hlo
  | cons c t ih =>
    obtain ⟨k, v⟩ := c
    simp only [Memory.wfFrom, Bool.and_eq_true, decide_eq_true_eq] at hwf
    simp only [Memory.below, List.all_cons, Bool.and_eq_true, decide_eq_true_eq] at hbelow
    obtain ⟨⟨hk, -⟩, ht⟩ := hwf
    have hrec : k + 1 + t.length ≤ n := ih hbelow.1 ht hbelow.2
    rw [List.length_cons]
    omega

theorem below_mono {n k : Nat} (h : n ≤ k) {m : Memory} (hm : Memory.below n m = true) :
    Memory.below k m = true := by
  simp only [Memory.below, List.all_eq_true, decide_eq_true_eq] at hm ⊢
  exact fun c hc => (hm c hc).trans_le h

/-- The cells of a byte array of fewer than 2^32 bytes can be counted in four bytes, so all parts are read back. -/
theorem takeImage_encodeImage {img : RawImage} (hok : RawImage.ok img = true) (rest : List Byte)
    (f : RawImage → List Byte → Decoded) : takeImage (encodeImage img ++ rest) f = f img rest := by
  have hparts := hok
  simp only [RawImage.ok, Bool.and_eq_true, decide_eq_true_eq] at hparts
  obtain ⟨⟨hsize, hwf⟩, hbelow⟩ := hparts
  have hcount : img.data.length < 2 ^ 32 := by
    have := length_le_of_wfFrom_below (Nat.zero_le _) hwf hbelow
    omega
  have hcells : Memory.below (2 ^ 32) img.data = true := below_mono hsize.le hbelow
  simp only [takeImage, encodeImage, List.append_assoc, takeNat32_nat32 hsize, takeNat32_nat32 hcount,
    takeCells_encodeCells hcells, if_pos hok]

theorem decode_insert (p : Params) (d : Byte) {img : RawImage} (hok : RawImage.ok img = true) (rest : List Byte) :
    decode p (0x32 :: d :: 1 :: (encodeImage img ++ rest)) = .ok (.insert d (some img), rest) :=
  takeImage_encodeImage hok rest fun img r => .ok (.insert d (some img), r)

/-! ### Decoding inverts encoding -/

theorem portMapOk_of_paramsOk {p : Params} (h : paramsOk p = true) : portMapOk p.portMap = true := by
  simp only [paramsOk, Bool.and_eq_true, and_assoc] at h
  exact h.1

/-- Settles O59: a port operation by the round trip of its handler's port, a command by its class, the rest by the
round trip of their operands. -/
theorem decodeInvertsEncode : Obligations.DecodeInvertsEncode := by
  intro p i rest hparams hwf
  have hports := portMapOk_of_paramsOk hparams
  cases i with
  | memRd a => exact decode_memRd p a rest
  | memWr a v => exact decode_memWr p a v rest
  | ctrlRd | psgDataRd | psgAddrRd | hccaRd | kbdRd | vdpDataRd | vdpCtrlRd | parRd | fdcStatusRd | fdcTrackRd
  | fdcSectorRd | fdcDataRd | fdcSelRd => exact decode_encodeRead hports hwf rest
  | ctrlWr v | psgDataWr v | psgAddrWr v | hccaWr v | kbdWr v | vdpDataWr v | vdpCtrlWr v | parWr v | fdcCmdWr v
  | fdcTrackWr v | fdcSectorWr v | fdcDataWr v | fdcSelWr v => exact decode_encodeWrite hports hwf v rest
  | unmappedRd q => exact decode_unmappedRead hwf rest
  | unmappedWr q v => exact decode_unmappedWrite hwf v rest
  | fdcRestore c | fdcOther c | fdcReadSector c | fdcStatus c | fdcIrqAck c | fdcDiag c =>
    exact decode_command hwf rest
  | flagSet g => exact takeFlag_byteOfFlag g .flagSet rest
  | flagClear g => exact takeFlag_byteOfFlag g .flagClear rest
  | loadStream xs => exact takeStream_encoded hwf rest
  | romLoad img => exact takeImage_encodeImage hwf rest fun img r => .ok (.romLoad img, r)
  | insert d img =>
    cases img with
    | none => rfl
    | some img => exact decode_insert p d hwf rest
  | txe v => cases v <;> rfl
  | strobeEdge | maskWrite | eject | keyPush => rfl
  | recompute | enterIdle | indexActive | fdcTick | slice | cpuPhase | housekeeping | rxPoll | keyPromote | watchdog
  | sliceIncrement | renderCheck | frameCheck | boundaryAdvance | stopCheck | run | reset | stop => rfl

/-- Settles O60: each stream is closed, so the decoder evaluates on it. -/
theorem writtenWordsDecode : Obligations.WrittenWordsDecode :=
  ⟨rfl, rfl, rfl, rfl, rfl, rfl, rfl, rfl, rfl⟩

end Sys2Proof

namespace Sys2Proof.Machine

/-! ### Port B -/

/-- The raw request byte holds the four flags in bits 7..4 (R92). -/
theorem getLsbD_rawRequests (rx tx key vblank : Bool) (j : Nat) :
    (rawRequests rx tx key vblank).getLsbD j =
      (rx && decide (j = 7) || tx && decide (j = 6) || key && decide (j = 5) || vblank && decide (j = 4)) := by
  have hbit : ∀ (v : Bool) (i : Fin 8),
      (if v then BitVec.twoPow 8 i else 0).getLsbD j = (v && decide (j = i)) := by
    intro v i
    cases v <;> simp [BitVec.getLsbD_twoPow, i.isLt, eq_comm]
  simp only [rawRequests, BitVec.getLsbD_or]
  exact congrArg₂ or (congrArg₂ or (congrArg₂ or (hbit rx 7) (hbit tx 6)) (hbit key 5)) (hbit vblank 4)

/-- The gated requests, bit by bit (R131). -/
theorem getLsbD_requests (s : State) (j : Nat) :
    (requests s).getLsbD j = ((s.rx && decide (j = 7) || s.tx && decide (j = 6) || s.key && decide (j = 5) ||
      s.vblank && decide (j = 4)) && s.mask.getLsbD j) := by
  rw [requests, BitVec.getLsbD_and, getLsbD_rawRequests]

/-- The vector is the highest active input: a request byte of 0 has none (R133). -/
theorem vector_eq_highestInput (s : State) : vector s = highestInput (requests s) := by
  unfold vector
  split
  · rename_i h
    rw [h]
    rfl
  · rfl

/-- The vector by the four unmasked flags, the highest first (R133, R135). -/
theorem vector_eq_ite (s : State) :
    vector s = (if s.rx && s.mask.getLsbD 7 then 7 else if s.tx && s.mask.getLsbD 6 then 6
      else if s.key && s.mask.getLsbD 5 then 5 else if s.vblank && s.mask.getLsbD 4 then 4 else 0) := by
  simp only [vector_eq_highestInput, highestInput, getLsbD_requests]
  simp

/-- The line is active iff some input is (R132). -/
theorem active_iff (s : State) : active s = true ↔ ∃ j, (requests s).getLsbD j = true := by
  have hactive : active s = true ↔ requests s ≠ 0 := by simp [active, groupActive, extReq]
  have hzero : requests s = 0 ↔ ∀ j, (requests s).getLsbD j = false :=
    ⟨fun h j => by rw [h]; exact BitVec.getLsbD_zero, fun h =>
      BitVec.eq_of_getLsbD_eq fun j _ => (h j).trans BitVec.getLsbD_zero.symm⟩
  rw [hactive, Ne, hzero]
  simp

/-- The line is active iff a flag is raised and unmasked. -/
theorem active_eq_or (s : State) :
    active s = (s.rx && s.mask.getLsbD 7 || s.tx && s.mask.getLsbD 6 || s.key && s.mask.getLsbD 5 ||
      s.vblank && s.mask.getLsbD 4) := by
  rw [Bool.eq_iff_iff, active_iff]
  simp [getLsbD_requests, or_and_right, exists_or]

/-- Port B packs the line in bit 0 and the vector in bits 3..1 (R94). -/
theorem getLsbD_packPortB (a : Bool) (v : Vector3) (j : Nat) :
    (packPortB a v).getLsbD j = if j = 0 then a else v.getLsbD (j - 1) := by
  rw [packPortB, BitVec.getLsbD_setWidth, BitVec.getLsbD_append]
  cases j with
  | zero => simp
  | succ k =>
    have hlow (h : v.getLsbD k = true) : k + 1 < 8 := by
      have := BitVec.lt_of_getLsbD h
      omega
    simpa using hlow

/-- The byte port B shows for four inputs, the highest first (R94). -/
theorem packPortB_priority : ∀ rx tx key vblank : Bool,
    packPortB (rx || tx || key || vblank)
      (if rx then 7 else if tx then 6 else if key then 5 else if vblank then 4 else 0) =
    if rx then 0x0F else if tx then 0x0D else if key then 0x0B else if vblank then 0x09 else 0x00 := by
  decide

/-- Settles O5: the bits by the packing, the five values by the highest unmasked flag. -/
theorem portBPacksVectorAndActive : Obligations.PortBPacksVectorAndActive := by
  intro s
  have hbit : ∀ j, (portb s).getLsbD j = if j = 0 then active s else (vector s).getLsbD (j - 1) :=
    getLsbD_packPortB (active s) (vector s)
  refine ⟨hbit 0, fun j _ => hbit (j + 1), fun j hj => ?_, ?_⟩
  · rw [hbit, if_neg (by omega)]
    exact BitVec.getLsbD_of_ge _ _ (by omega)
  · rw [portb, active_eq_or, vector_eq_ite]
    exact packPortB_priority _ _ _ _

/-! ### The floppy status byte -/

/-- INDEX: Idle, the start of a rotation, and a disk in the selected drive (R231). -/
theorem indexActive_iff (s : State) : indexActive s = true ↔ s.fdc.mode = .idle ∧ s.fdc.rot = 0 ∧
    ∃ d img, driveOf s.fdc.driveSelect = some d ∧ driveImage d s = some img := by
  have hdisk : diskSelected s = true ↔
      ∃ d img, driveOf s.fdc.driveSelect = some d ∧ driveImage d s = some img := by
    unfold diskSelected
    cases driveOf s.fdc.driveSelect <;> simp [Option.isSome_iff_exists]
  simp [indexActive, hdisk, and_assoc]

/-- A status read shows the stored bits, but INDEX in bit 1 in Idle (R95, R212). -/
theorem getLsbD_fdcStatusByte (s : State) (j : Nat) :
    (fdcStatusByte s).getLsbD j =
      if s.fdc.mode = .idle ∧ j = 1 then indexActive s else s.fdc.status.getLsbD j := by
  unfold fdcStatusByte
  cases s.fdc.mode <;> simp [getLsbD_setBit_any]

/-- Settles O22: the stored bits, with what R49 items 1 to 3 say of them in either mode. -/
theorem statusReadLayout : Obligations.StatusReadLayout := by
  intro s hinv
  obtain ⟨hstream, hidle, hunused⟩ := (fdcInvariants_iff s.fdc).1 hinv
  have hstored : ∀ j, j ≠ 1 → (fdcStatusByte s).getLsbD j = s.fdc.status.getLsbD j := fun j hj =>
    (getLsbD_fdcStatusByte s j).trans (if_neg fun h => hj h.2)
  have hzero : ∀ j, j = 2 ∨ j = 3 ∨ j = 5 ∨ j = 6 → (fdcStatusByte s).getLsbD j = false := fun j hj =>
    (hstored j (by omega)).trans (hunused j hj)
  refine ⟨fdcStatusByte s, rfl, fun hm => ⟨?_, ?_⟩, fun hm => ⟨hstored 0 (by decide), ?_⟩, hzero 2 (by decide),
    hzero 3 (by decide), hstored 4 (by decide), hzero 5 (by decide), hzero 6 (by decide), hstored 7 (by decide)⟩
  · exact (hstored 0 (by decide)).trans (hidle hm).2
  · rw [getLsbD_fdcStatusByte, if_pos ⟨hm, rfl⟩, indexActive_iff]
    exact and_iff_right hm
  · rw [getLsbD_fdcStatusByte, if_neg (by simp [hm])]
    exact (hstream hm).2

end Sys2Proof.Machine
end

section
/-! The Interrupt Arbiter (40_interrupt_arbiter.md): the encoder (R131 to R133), what mask and flag writes drive (R136
to R138), and which operation moves which request flag (R141 to R144). -/

namespace Sys2Proof.Machine

/-! ### The encoder -/

/-- No request is higher than the one the encoder gives (R133). -/
theorem le_highestInput {req : Byte} {j : Nat} (h : req.getLsbD j = true) : j ≤ (highestInput req).toNat := by
  have hj : j < 8 := BitVec.lt_of_getLsbD h
  have hne : ∀ k, ¬ req.getLsbD k = true → j ≠ k := fun k hk hjk => hk (hjk ▸ h)
  unfold highestInput
  split_ifs <;> grind

/-- What the encoder gives is a request, if there is one (R133). -/
theorem getLsbD_highestInput {req : Byte} {j : Nat} (h : req.getLsbD j = true) :
    req.getLsbD (highestInput req).toNat = true := by
  have hle : j ≤ (highestInput req).toNat := le_highestInput h
  unfold highestInput at hle ⊢
  split_ifs at hle ⊢ with h7 h6 h5 h4 h3 h2 h1
  · exact h7
  · exact h6
  · exact h5
  · exact h4
  · exact h3
  · exact h2
  · exact h1
  · obtain rfl : j = 0 := Nat.le_zero.1 hle
    exact h

/-- Settles O4: the gating bit by bit, and the encoder's choice by the two laws of `highestInput`. -/
theorem encoderPicksHighestRequest : Obligations.EncoderPicksHighestRequest := by
  intro s
  have hgated : (requests s).getLsbD 7 = (s.rx && s.mask.getLsbD 7) ∧
      (requests s).getLsbD 6 = (s.tx && s.mask.getLsbD 6) ∧ (requests s).getLsbD 5 = (s.key && s.mask.getLsbD 5) ∧
      (requests s).getLsbD 4 = (s.vblank && s.mask.getLsbD 4) ∧ ∀ j, j < 4 → (requests s).getLsbD j = false := by
    simp only [getLsbD_requests]
    refine ⟨by simp, by simp, by simp, by simp, fun j hj => ?_⟩
    simp [show j ≠ 7 by omega, show j ≠ 6 by omega, show j ≠ 5 by omega, show j ≠ 4 by omega]
  refine ⟨hgated, active_iff s, fun hactive => ?_, fun hidle => ?_⟩
  · obtain ⟨j, hj⟩ := (active_iff s).1 hactive
    rw [vector_eq_highestInput]
    exact ⟨getLsbD_highestInput hj, fun _ => le_highestInput⟩
  · have hzero : requests s = 0 := by simpa [active, groupActive, extReq] using hidle
    exact if_pos hzero

/-! ### The writes that drive the line -/

/-- Settles O6: each write is the store and then a recompute, which only tells the line. -/
theorem maskAndFlagWritesDriveTheLine : Obligations.MaskAndFlagWritesDriveTheLine := by
  intro s
  have hset : ∀ f, exec (.flagSet f) s =
      .next { setFlag f true s with trace := lineEvents (setFlag f true s) ++ s.trace } :=
    fun f => congrArg Host.Outcome.next (flagSet_eq f s)
  have hclear : ∀ f, exec (.flagClear f) s =
      .next { setFlag f false s with trace := lineEvents (setFlag f false s) ++ s.trace } :=
    fun f => congrArg Host.Outcome.next (flagClear_eq f s)
  exact ⟨congrArg Host.Outcome.next (recompute_eq s),
    fun v => congrArg Host.Outcome.next (recompute_eq { s with mask := v }),
    hset .rx, hset .tx, hset .key, hset .vblank, hclear .rx, hclear .tx, hclear .key, hclear .vblank⟩

/-! ### The moves of the request flags -/

/-- The four request flags (R26). -/
def flags (s : State) : Bool × Bool × Bool × Bool := (s.rx, s.tx, s.key, s.vblank)

theorem flagValue_congr {s t : State} (h : flags t = flags s) (f : Flag) : flagValue f t = flagValue f s := by
  simp only [flags, Prod.mk.injEq] at h
  obtain ⟨hrx, htx, hkey, hvblank⟩ := h
  cases f <;> assumption

/-- Each request flag keeps its value, or has moved to a value that `L` lists for it. -/
def FlagMoves (L : List (Flag × Bool)) (s t : State) : Prop :=
  ∀ f, flagValue f t = flagValue f s ∨ (f, flagValue f t) ∈ L

namespace FlagMoves

variable {L M : List (Flag × Bool)} {s t u : State}

theorem of_flags_eq (h : flags t = flags s) : FlagMoves L s t := fun f => .inl (flagValue_congr h f)

theorem trans (h : FlagMoves L s t) (h' : FlagMoves L t u) : FlagMoves L s u := by
  intro f
  rcases h' f with hkept | hmoved
  · rw [hkept]
    exact h f
  · exact .inr hmoved

theorem mono (hLM : L ⊆ M) (h : FlagMoves L s t) : FlagMoves M s t := fun f => (h f).imp_right fun hmem => hLM hmem

/-- One flag is written; the others stay. -/
theorem of_setFlag {f : Flag} {v : Bool} (hmem : (f, v) ∈ L) (h : flags t = flags (setFlag f v s)) :
    FlagMoves L s t := by
  intro g
  rw [flagValue_congr h]
  by_cases hfg : f = g
  · subst hfg
    rw [flagValue_setFlag]
    exact .inr hmem
  · exact .inl (flagValue_setFlag_other s f g v hfg)

theorem of_next (h : (.next u : Result) = .next t) (hu : FlagMoves L s u) : FlagMoves L s t := by
  cases h
  exact hu

/-- A flag that has changed made a listed move. -/
theorem mem_of_change (h : FlagMoves L s t) {f : Flag} {v : Bool} (hs : flagValue f s = !v) (ht : flagValue f t = v) :
    (f, v) ∈ L := by
  rcases h f with hkept | hmoved
  · rw [hs, ht] at hkept
    cases v <;> cases hkept
  · exact ht ▸ hmoved

end FlagMoves

/-- The moves inside a CPU phase: the read ports clear their flags (R170, R172, R176), the host moves `tx` (R142). -/
def phaseMoves : List (Flag × Bool) := [(.rx, false), (.key, false), (.vblank, false), (.tx, false), (.tx, true)]

/-- The moves of a slice after its CPU phase (R266, R267, R271). -/
def tailMoves : List (Flag × Bool) := [(.rx, true), (.key, true), (.vblank, true)]

/-- The moves an operation can make. -/
def flagMoves : Instr → List (Flag × Bool)
  | .hccaRd => [(.rx, false)]
  | .kbdRd => [(.key, false)]
  | .vdpCtrlRd => [(.vblank, false)]
  | .flagSet f => [(f, true)]
  | .flagClear f => [(f, false)]
  | .txe v => [(.tx, v)]
  | .rxPoll => [(.rx, true)]
  | .keyPromote => [(.key, true)]
  | .frameCheck => [(.vblank, true)]
  | .housekeeping => [(.rx, true), (.key, true)]
  | .cpuPhase => phaseMoves
  | .slice => phaseMoves ++ tailMoves
  | .run => phaseMoves ++ tailMoves
  | .reset => [(.rx, false), (.tx, false), (.key, false), (.vblank, false)]
  | _ => []

/-! ### The operations that leave the flags -/

theorem strobeEdge_flags (old new : Byte) (s : State) : flags (strobeEdge old new s) = flags s := by
  rcases strobeEdge_cases old new s with ⟨_, e⟩ | ⟨_, e⟩
  · rw [e]
    rfl
  · rw [e]

theorem psgAddrWrite_flags (v : Byte) (s : State) : flags (psgAddrWrite v s) = flags s := by
  rcases psgAddrWrite_cases v s with ⟨_, e⟩ | ⟨_, e⟩
  · rw [e]
    rfl
  · rw [e]
    rfl

theorem psgDataWrite_flags {v : Byte} {s t : State} (h : psgDataWrite v s = .next t) : flags t = flags s := by
  obtain ⟨_, ⟨_, rfl⟩ | ⟨_, rfl⟩⟩ := psgDataWrite_eq_next h <;> rfl

theorem psgDataRead_flags {s t : State} (h : psgDataRead s = .next t) : flags t = flags s := by
  obtain ⟨_, ⟨_, rfl⟩ | ⟨_, rfl⟩ | ⟨_, _, rfl⟩⟩ := psgDataRead_eq_next h <;> rfl

theorem fdcDataRead_flags (s : State) : flags (fdcDataRead s) = flags s := by
  have hadv : flags (fdcDataAdvance s) = flags s := by
    rw [fdcDataAdvance_frame]
    rfl
  exact hadv

theorem readSectorCommand_flags (s : State) : flags (readSectorCommand s) = flags s := by
  rcases readSectorCommand_cases s with ⟨_, e⟩ | ⟨_, _, _, e⟩ | ⟨_, _, _, _, _, e⟩ | ⟨_, _, _, _, _, _, _, e⟩ |
    ⟨_, _, _, _, _, _, _, e⟩ <;> simp [e, flags, readSectorStart]

theorem fdcCommand_flags (c : Byte) (s : State) : flags (fdcCommand c s) = flags s := by
  unfold fdcCommand
  cases cmdClass s.params.cmdDecode c with
  | readSector => exact readSectorCommand_flags s
  | _ => rfl

theorem setDriveImage_flags (d : DriveId) (o : Option Image) (s : State) :
    flags (setDriveImage d o s) = flags s := by
  cases d <;> rfl

theorem insertDisk_flags {d : Byte} {img : Option RawImage} {s t : State} (h : insertDisk d img s = .next t) :
    flags t = flags s := by
  obtain ⟨dr, _, _, _, _, _, _, rfl⟩ := insertDisk_eq_next h
  exact setDriveImage_flags dr _ s

theorem ejectDisk_flags {d : Byte} {s t : State} (h : ejectDisk d s = .next t) : flags t = flags s := by
  obtain ⟨dr, _, ⟨_, rfl⟩ | ⟨_, _, _, rfl⟩ | ⟨_, _, rfl⟩⟩ := ejectDisk_eq_next h
  · rfl
  · exact setDriveImage_flags dr none (enterIdle s)
  · exact setDriveImage_flags dr none s

theorem loadRom_flags {img : RawImage} {s t : State} (h : loadRom img s = .next t) : flags t = flags s := by
  obtain ⟨_, _, _, rfl⟩ := loadRom_eq_next h
  rfl

theorem watchdog_flags (s : State) : flags (watchdog s) = flags s := by
  rw [watchdog_frame]
  rfl

theorem sliceIncrement_flags (s : State) : flags (sliceIncrement s) = flags s := rfl

theorem boundaryAdvance_flags (s : State) : flags (boundaryAdvance s) = flags s := rfl

theorem renderCheck_flags (s : State) : flags (renderCheck s) = flags s := by
  rw [renderCheck_frame]
  rfl

theorem stopCheck_flags (s : State) : flags (stopCheck s) = flags s := by
  rw [stopCheck_frame]
  rfl

theorem runOn_flags (s : State) : flags (runOn s) = flags s := by
  unfold runOn
  split <;> rfl

/-! ### The operations that move a flag -/

theorem hccaRead_flags (s : State) : flags (hccaRead s) = flags (setFlag .rx false s) := by
  simp [flags, hccaRead]

theorem vdpStatusRead_flags (s : State) : flags (vdpStatusRead s) = flags (setFlag .vblank false s) := by
  simp [flags, vdpStatusRead]

theorem kbdRead_flags (s : State) : flags (kbdRead s) = flags (setFlag .key false s) := by
  unfold kbdRead
  split <;> simp [flags]

theorem setTx_flags (v : Bool) (s : State) : flags (setTx v s) = flags (setFlag .tx v s) := by
  cases v <;> rfl

section
variable {L : List (Flag × Bool)}

theorem rxPoll_flagMoves (hL : (.rx, true) ∈ L) (s : State) : FlagMoves L s (rxPoll s) := by
  rcases rxPoll_cases s with ⟨_, e⟩ | ⟨_, e⟩
  · rw [e]
    exact .of_setFlag hL (by simp [flags])
  · rw [e]
    exact .of_flags_eq (by simp [flags])

theorem keyPromote_flagMoves (hL : (.key, true) ∈ L) (s : State) : FlagMoves L s (keyPromote s) := by
  rcases keyPromote_cases s with ⟨_, _, e⟩ | e
  · rw [e]
    exact .of_setFlag hL rfl
  · rw [e]
    exact .of_flags_eq rfl

theorem frameCheck_flagMoves (hL : (.vblank, true) ∈ L) (s : State) : FlagMoves L s (frameCheck s) := by
  rcases frameCheck_cases s with ⟨_, e⟩ | ⟨_, _, e⟩ | ⟨_, _, e⟩
  · rw [e]
    exact .of_flags_eq rfl
  · rw [e]
    exact .of_setFlag hL (by simp [flags])
  · rw [e]
    exact .of_flags_eq (by simp [flags])

theorem housekeeping_flagMoves (hrx : (.rx, true) ∈ L) (hkey : (.key, true) ∈ L) (s : State) :
    FlagMoves L s (housekeeping s) := by
  have htick : FlagMoves L s (fdcTick s) := .of_flags_eq rfl
  have hpoll := htick.trans (rxPoll_flagMoves hrx (fdcTick s))
  have hkeys := hpoll.trans (keyPromote_flagMoves hkey (rxPoll (fdcTick s)))
  exact hkeys.trans (.of_flags_eq (watchdog_flags _))

end

theorem reset_flagMoves (s : State) : FlagMoves (flagMoves .reset) s (resetBlock s) := by
  intro f
  cases f <;> simp [flagValue, flagMoves, resetBlock]

/-- The tail of a slice: housekeeping moves `rx` and `key`, the frame check `vblank`. -/
theorem sliceTail_flagMoves (s : State) : FlagMoves tailMoves s (sliceTail s) := by
  have hhouse : FlagMoves tailMoves s (housekeeping s) := housekeeping_flagMoves (by decide) (by decide) s
  have hslice := hhouse.trans (.of_flags_eq (sliceIncrement_flags (housekeeping s)))
  have hrender := hslice.trans (.of_flags_eq (renderCheck_flags _))
  have hframe := hrender.trans (frameCheck_flagMoves (by decide) _)
  have hboundary := hframe.trans (.of_flags_eq (boundaryAdvance_flags _))
  exact hboundary.trans (.of_flags_eq (stopCheck_flags _))

/-! ### Every operation -/

/-- The operations a CPU phase is part of (R261, R262, R275). -/
def hasCpuPhase : Instr → Bool
  | .cpuPhase => true
  | .slice => true
  | .run => true
  | _ => false

theorem exec_flagMoves_of_no_phase {i : Instr} {s t : State} (hi : hasCpuPhase i = false)
    (h : exec i s = .next t) : FlagMoves (flagMoves i) s t := by
  cases i with
  | cpuPhase | slice | run => cases hi
  | hccaRd => exact .of_next h (.of_setFlag (by decide) (hccaRead_flags s))
  | kbdRd => exact .of_next h (.of_setFlag (by decide) (kbdRead_flags s))
  | vdpCtrlRd => exact .of_next h (.of_setFlag (by decide) (vdpStatusRead_flags s))
  | flagSet f => exact .of_next h (.of_setFlag (List.mem_singleton_self (f, true)) rfl)
  | flagClear f => exact .of_next h (.of_setFlag (List.mem_singleton_self (f, false)) rfl)
  | txe v => exact .of_next h (.of_setFlag (List.mem_singleton_self (Flag.tx, v)) (setTx_flags v s))
  | rxPoll => exact .of_next h (rxPoll_flagMoves (by decide) s)
  | keyPromote => exact .of_next h (keyPromote_flagMoves (by decide) s)
  | frameCheck => exact .of_next h (frameCheck_flagMoves (by decide) s)
  | housekeeping => exact .of_next h (housekeeping_flagMoves (by decide) (by decide) s)
  | reset => exact .of_next h (reset_flagMoves s)
  | ctrlWr v => exact .of_next h (.of_flags_eq (strobeEdge_flags s.ctrl v { s with ctrl := v }))
  | strobeEdge old new => exact .of_next h (.of_flags_eq (strobeEdge_flags old new s))
  | psgAddrWr v => exact .of_next h (.of_flags_eq (psgAddrWrite_flags v s))
  | psgDataWr v => exact .of_flags_eq (psgDataWrite_flags h)
  | psgDataRd => exact .of_flags_eq (psgDataRead_flags h)
  | fdcDataRd => exact .of_next h (.of_flags_eq (fdcDataRead_flags s))
  | fdcCmdWr c => exact .of_next h (.of_flags_eq (fdcCommand_flags c s))
  | fdcReadSector c => exact .of_next h (.of_flags_eq (readSectorCommand_flags s))
  | insert d img => exact .of_flags_eq (insertDisk_flags h)
  | eject d => exact .of_flags_eq (ejectDisk_flags h)
  | romLoad img => exact .of_flags_eq (loadRom_flags h)
  | watchdog => exact .of_next h (.of_flags_eq (watchdog_flags s))
  | renderCheck => exact .of_next h (.of_flags_eq (renderCheck_flags s))
  | stopCheck => exact .of_next h (.of_flags_eq (stopCheck_flags s))
  | _ => exact .of_next h (.of_flags_eq rfl)

/-- The operation an access of the CPU is (R11). -/
def accessInstr (p : Params) : BusAccess → Instr
  | .memRead a => .memRd a
  | .memWrite a v => .memWr a v
  | .portRead q => portReadInstr p q
  | .portWrite q v => portWriteInstr p q v

theorem busAccess_eq_exec (a : BusAccess) (s : State) : busAccess a s = exec (accessInstr s.params a) s := by
  cases a with
  | memRead | memWrite => rfl
  | portRead q => exact portRead_eq_exec q s
  | portWrite q v => exact portWrite_eq_exec q v s

/-- The operation an action of the host inside a CPU phase is (R15, R17). -/
def hostInstr : HostAct → Instr
  | .keyPush b => .keyPush b
  | .txe v => .txe v
  | .insert d img => .insert d img
  | .eject d => .eject d
  | .stop => .stop

theorem hostAct_eq_exec (x : HostAct) (s : State) : hostAct x s = exec (hostInstr x) s := by
  cases x <;> rfl

/-- An operation that can be an act of a CPU phase: it has no phase of its own, and makes only the phase's moves. -/
structure IsAct (i : Instr) : Prop where
  noPhase : hasCpuPhase i = false
  moves : flagMoves i ⊆ phaseMoves

theorem isAct_readInstr (k : Handler) : IsAct (readInstr k) := by
  cases k <;> exact ⟨rfl, by decide⟩

theorem isAct_writeInstr (k : Handler) (v : Byte) : IsAct (writeInstr k v) := by
  cases k <;> exact ⟨rfl, List.nil_subset _⟩

theorem isAct_accessInstr (p : Params) (a : BusAccess) : IsAct (accessInstr p a) := by
  cases a with
  | memRead | memWrite => exact ⟨rfl, List.nil_subset _⟩
  | portRead q =>
    simp only [accessInstr, portReadInstr]
    cases portLookup p.portMap q with
    | none => exact ⟨rfl, List.nil_subset _⟩
    | some k => exact isAct_readInstr k
  | portWrite q v =>
    simp only [accessInstr, portWriteInstr]
    cases portLookup p.portMap q with
    | none => exact ⟨rfl, List.nil_subset _⟩
    | some k => exact isAct_writeInstr k v

theorem isAct_hostInstr (x : HostAct) : IsAct (hostInstr x) := by
  cases x with
  | txe v => cases v <;> exact ⟨rfl, by decide⟩
  | _ => exact ⟨rfl, List.nil_subset _⟩

theorem IsAct.exec_flagMoves {i : Instr} (hi : IsAct i) {s t : State} (h : exec i s = .next t) :
    FlagMoves phaseMoves s t :=
  (exec_flagMoves_of_no_phase hi.noPhase h).mono hi.moves

theorem hostActInPhase_flagMoves {x : HostAct} {s t : State} (h : hostActInPhase x s = .next t) :
    FlagMoves phaseMoves s t := by
  obtain ⟨u, hu, hdone | ⟨e, _, rfl⟩⟩ := hostActInPhase_cases x s
  · obtain rfl : u = t := by simpa [hu] using h
    exact (isAct_hostInstr x).exec_flagMoves ((hostAct_eq_exec x s).symm.trans hdone)
  · exact .of_next (hu.symm.trans h) (.of_flags_eq rfl)

theorem cpuPhase_flagMoves {s t : State} (h : cpuPhase s = .next t) : FlagMoves phaseMoves s t :=
  cpuPhase_keeps (P := FlagMoves phaseMoves s)
    (fun a u _ hbus hu => hu.trans
      ((isAct_accessInstr u.params a).exec_flagMoves ((busAccess_eq_exec a u).symm.trans hbus)))
    (fun _ _ _ hhost hu => hu.trans (hostActInPhase_flagMoves hhost))
    (fun _ hu => hu.trans (.of_flags_eq rfl))
    (fun _ _ hu => hu.trans (.of_flags_eq rfl))
    s t h (.of_flags_eq rfl)

theorem sliceStep_flagMoves {s t : State} (h : sliceStep s = .next t) :
    FlagMoves (phaseMoves ++ tailMoves) s t := by
  obtain ⟨u, hphase, rfl, _⟩ := sliceStep_eq_next h
  exact ((cpuPhase_flagMoves hphase).mono (List.subset_append_left _ _)).trans
    ((sliceTail_flagMoves u).mono (List.subset_append_right _ _))

/-- Every operation moves the flags only as `flagMoves` lists. -/
theorem exec_flagMoves {i : Instr} {s t : State} (h : exec i s = .next t) : FlagMoves (flagMoves i) s t := by
  cases hi : hasCpuPhase i with
  | false => exact exec_flagMoves_of_no_phase hi h
  | true =>
    cases i with
    | cpuPhase => exact cpuPhase_flagMoves h
    | slice => exact sliceStep_flagMoves h
    | run =>
      obtain ⟨_, u, hslice, rfl⟩ := runBlock_eq_next h
      exact (sliceStep_flagMoves hslice).trans (.of_flags_eq (runOn_flags u))
    | _ => cases hi

/-! ### The paths of each flag -/

section
variable {i : Instr}

theorem tx_mem_flagMoves {v : Bool} (h : (.tx, v) ∈ flagMoves i) :
    i = .txe v ∨ i = .flagSet .tx ∨ i = .flagClear .tx ∨ i = .reset ∨ i = .cpuPhase ∨ i = .slice ∨ i = .run := by
  cases i <;> simp_all [flagMoves]

theorem rx_true_mem_flagMoves (h : (.rx, true) ∈ flagMoves i) :
    i = .rxPoll ∨ i = .housekeeping ∨ i = .slice ∨ i = .run ∨ i = .flagSet .rx := by
  cases i <;> simp_all [flagMoves, phaseMoves]

theorem rx_false_mem_flagMoves (h : (.rx, false) ∈ flagMoves i) :
    i = .hccaRd ∨ i = .cpuPhase ∨ i = .slice ∨ i = .run ∨ i = .flagClear .rx ∨ i = .reset := by
  cases i <;> simp_all [flagMoves]

theorem key_true_mem_flagMoves (h : (.key, true) ∈ flagMoves i) :
    i = .keyPromote ∨ i = .housekeeping ∨ i = .slice ∨ i = .run ∨ i = .flagSet .key := by
  cases i <;> simp_all [flagMoves, phaseMoves]

theorem key_false_mem_flagMoves (h : (.key, false) ∈ flagMoves i) :
    i = .kbdRd ∨ i = .cpuPhase ∨ i = .slice ∨ i = .run ∨ i = .flagClear .key ∨ i = .reset := by
  cases i <;> simp_all [flagMoves]

theorem vblank_true_mem_flagMoves (h : (.vblank, true) ∈ flagMoves i) :
    i = .frameCheck ∨ i = .slice ∨ i = .run ∨ i = .flagSet .vblank := by
  cases i <;> simp_all [flagMoves, phaseMoves]

theorem vblank_false_mem_flagMoves (h : (.vblank, false) ∈ flagMoves i) :
    i = .vdpCtrlRd ∨ i = .cpuPhase ∨ i = .slice ∨ i = .run ∨ i = .flagClear .vblank ∨ i = .reset := by
  cases i <;> simp_all [flagMoves]

end

/-- Settles O7: `txe` is a flag operation on `tx`, and only the operations left out list a move of `tx`. -/
theorem txChangesOnlyByHostEvent : Obligations.TxChangesOnlyByHostEvent := by
  constructor
  · intro v s
    cases v with
    | false => exact congrArg Host.Outcome.next (flagClear_eq .tx s)
    | true => exact congrArg Host.Outcome.next (flagSet_eq .tx s)
  · intro i s t h htxe hset hclear hreset hphase hslice hrun
    rcases exec_flagMoves h .tx with hkept | hmoved
    · exact hkept
    · rcases tx_mem_flagMoves hmoved with hi | hi | hi | hi | hi | hi | hi
      · exact absurd hi (htxe _)
      · exact absurd hi hset
      · exact absurd hi hclear
      · exact absurd hi hreset
      · exact absurd hi hphase
      · exact absurd hi hslice
      · exact absurd hi hrun

/-- Settles O8: a change is a listed move, and the lists name the paths of each. -/
theorem flagsChangeOnlyOnTheirPaths : Obligations.FlagsChangeOnlyOnTheirPaths := by
  intro i s t h
  have hmove : ∀ f v, flagValue f s = !v → flagValue f t = v → (f, v) ∈ flagMoves i :=
    fun _ _ => (exec_flagMoves h).mem_of_change
  exact ⟨fun hs ht => rx_true_mem_flagMoves (hmove .rx true hs ht),
    fun hs ht => rx_false_mem_flagMoves (hmove .rx false hs ht),
    fun hs ht => key_true_mem_flagMoves (hmove .key true hs ht),
    fun hs ht => key_false_mem_flagMoves (hmove .key false hs ht),
    fun hs ht => vblank_true_mem_flagMoves (hmove .vblank true hs ht),
    fun hs ht => vblank_false_mem_flagMoves (hmove .vblank false hs ht)⟩

end Sys2Proof.Machine
end

section
/-! No operation is a Fatal abort while the PSG latch is in range (R166, R293): the latch stays in range, a CPU phase
then completes at its boundary (R262), and a slice that completes its phase meets item 6 of R49. -/

namespace Sys2Proof.Machine

/-! ### The latch stays in range -/

/-- The one update of the latch stores an address up to 15, or RESET's 0 (R166). -/
theorem Update.psgLatch_le {A : List Power} {s t : State} (h : Update A s t) (hs : s.psgLatch.toNat ≤ 15) :
    t.psgLatch.toNat ≤ 15 := by
  cases h with
  | psgLatch _ _ hv => exact hv
  | reset => exact Nat.zero_le 15
  | flag => simpa using hs
  | image => simpa using hs
  | _ => exact hs

theorem Updates.psgLatch_le {A : List Power} {s t : State} (h : Updates A s t) (hs : s.psgLatch.toNat ≤ 15) :
    t.psgLatch.toNat ≤ 15 :=
  h.keeps (fun _ _ hu => hu.psgLatch_le) hs

/-! ### What the acts of a CPU phase leave to the scheduler -/

/-- What the scheduler keeps of its own (R41 to R44, R46, R37), with the parameters and the model's run. -/
structure Schedule where
  cycles : Nat
  nextBoundary : Nat
  slice : Nat
  kbdIdle : Nat
  rot : Nat
  faulted : Bool
  params : Params
  input : List Byte
  runState : RunState

/-- The scheduler's part of a state. -/
def schedule (s : State) : Schedule where
  cycles := s.cycles
  nextBoundary := s.nextBoundary
  slice := s.slice
  kbdIdle := s.kbdIdle
  rot := s.fdc.rot
  faulted := s.faulted
  params := s.params
  input := s.input
  runState := s.runState

theorem schedule_of_next {s t u : State} (h : (.next u : Result) = .next t) (hu : schedule u = schedule s) :
    schedule t = schedule s := by
  cases h
  exact hu

theorem strobeEdge_schedule (old new : Byte) (s : State) : schedule (strobeEdge old new s) = schedule s := by
  rcases strobeEdge_cases old new s with ⟨_, e⟩ | ⟨_, e⟩
  · rw [e]
    rfl
  · rw [e]

theorem psgAddrWrite_schedule (v : Byte) (s : State) : schedule (psgAddrWrite v s) = schedule s := by
  rcases psgAddrWrite_cases v s with ⟨_, e⟩ | ⟨_, e⟩
  · rw [e]
    rfl
  · rw [e]
    rfl

theorem hccaRead_schedule (s : State) : schedule (hccaRead s) = schedule s := by simp [schedule, hccaRead]

theorem vdpStatusRead_schedule (s : State) : schedule (vdpStatusRead s) = schedule s := by
  simp [schedule, vdpStatusRead]

theorem vdpDataRead_schedule (s : State) : schedule (vdpDataRead s) = schedule s := by
  simp [schedule, vdpDataRead]

theorem kbdRead_schedule (s : State) : schedule (kbdRead s) = schedule s := by
  unfold kbdRead
  split <;> simp [schedule]

theorem fdcDataRead_schedule (s : State) : schedule (fdcDataRead s) = schedule s := by
  unfold fdcDataRead
  rcases fdcDataAdvance_cases s with ⟨_, e⟩ | ⟨_, _, e⟩ | ⟨_, _, e⟩ <;> simp [e, schedule]

theorem readSectorCommand_schedule (s : State) : schedule (readSectorCommand s) = schedule s := by
  rcases readSectorCommand_cases s with ⟨_, e⟩ | ⟨_, _, _, e⟩ | ⟨_, _, _, _, _, e⟩ | ⟨_, _, _, _, _, _, _, e⟩ |
    ⟨_, _, _, _, _, _, _, e⟩ <;> simp [e, schedule, readSectorStart]

theorem fdcCommand_schedule (c : Byte) (s : State) : schedule (fdcCommand c s) = schedule s := by
  unfold fdcCommand
  cases cmdClass s.params.cmdDecode c with
  | readSector => exact readSectorCommand_schedule s
  | _ => rfl

theorem handlerRead_schedule (k : Handler) {s t : State} (h : handlerRead k s = .next t) :
    schedule t = schedule s := by
  cases k with
  | psgData => obtain ⟨_, ⟨_, rfl⟩ | ⟨_, rfl⟩ | ⟨_, _, rfl⟩⟩ := psgDataRead_eq_next h <;> rfl
  | hcca => exact schedule_of_next h (hccaRead_schedule s)
  | kbd => exact schedule_of_next h (kbdRead_schedule s)
  | vdpData => exact schedule_of_next h (vdpDataRead_schedule s)
  | vdpCtrl => exact schedule_of_next h (vdpStatusRead_schedule s)
  | fdcData => exact schedule_of_next h (fdcDataRead_schedule s)
  | _ => exact schedule_of_next h rfl

theorem handlerWrite_schedule (k : Handler) {v : Byte} {s t : State} (h : handlerWrite k v s = .next t) :
    schedule t = schedule s := by
  cases k with
  | psgData => obtain ⟨_, ⟨_, rfl⟩ | ⟨_, rfl⟩⟩ := psgDataWrite_eq_next h <;> rfl
  | ctrl => exact schedule_of_next h (strobeEdge_schedule s.ctrl v { s with ctrl := v })
  | psgAddr => exact schedule_of_next h (psgAddrWrite_schedule v s)
  | fdcCmdStat => exact schedule_of_next h (fdcCommand_schedule v s)
  | _ => exact schedule_of_next h rfl

theorem busAccess_schedule {a : BusAccess} {s t : State} (h : busAccess a s = .next t) :
    schedule t = schedule s := by
  cases a with
  | memRead | memWrite => exact schedule_of_next h rfl
  | portRead p =>
    simp only [busAccess, portRead] at h
    cases hp : portLookup s.params.portMap p with
    | none => exact schedule_of_next (u := unmappedRead p s) (by rwa [hp] at h) rfl
    | some k => exact handlerRead_schedule k (by rwa [hp] at h)
  | portWrite p v =>
    simp only [busAccess, portWrite] at h
    cases hp : portLookup s.params.portMap p with
    | none => exact schedule_of_next (u := unmappedWrite p s) (by rwa [hp] at h) rfl
    | some k => exact handlerWrite_schedule k (by rwa [hp] at h)

theorem setDriveImage_schedule (d : DriveId) (o : Option Image) (s : State) :
    schedule (setDriveImage d o s) = schedule s := by
  cases d <;> rfl

theorem hostAct_schedule {x : HostAct} {s t : State} (h : hostAct x s = .next t) : schedule t = schedule s := by
  cases x with
  | keyPush | stop => exact schedule_of_next h rfl
  | txe v => cases v <;> exact schedule_of_next h rfl
  | insert d img =>
    obtain ⟨dr, _, _, _, _, _, _, rfl⟩ := insertDisk_eq_next h
    exact setDriveImage_schedule dr _ s
  | eject d =>
    obtain ⟨dr, _, ⟨_, rfl⟩ | ⟨_, _, _, rfl⟩ | ⟨_, _, rfl⟩⟩ := ejectDisk_eq_next h
    · rfl
    · exact setDriveImage_schedule dr none (enterIdle s)
    · exact setDriveImage_schedule dr none s

theorem hostActInPhase_schedule {x : HostAct} {s t : State} (h : hostActInPhase x s = .next t) :
    schedule t = schedule s := by
  obtain ⟨u, hu, hdone | ⟨e, _, rfl⟩⟩ := hostActInPhase_cases x s
  · exact schedule_of_next (hu.symm.trans h) (hostAct_schedule hdone)
  · exact schedule_of_next (hu.symm.trans h) rfl

/-- The acts of a CPU step leave the scheduler's part as it is, the cycle counter with it. -/
theorem cpuActs_schedule {l : List CpuAct} {s t : State} (h : cpuActs l s = .next t) : schedule t = schedule s :=
  cpuActs_keeps (P := fun u => schedule u = schedule s)
    (fun _ _ _ hbus hu => (busAccess_schedule hbus).trans hu)
    (fun _ _ _ hhost hu => (hostActInPhase_schedule hhost).trans hu)
    l s t h rfl

/-- A CPU step adds at least one cycle and leaves the rest of the scheduler's part (R262). -/
theorem cpuStep_schedule {s t : State} (h : cpuStep s = .next t) :
    ∃ n, 0 < n ∧ schedule t = { schedule s with cycles := s.cycles + n } := by
  obtain ⟨u, hacts, rfl⟩ := cpuStep_eq_next h
  have hu : schedule u = schedule s := (cpuActs_schedule hacts).trans rfl
  refine ⟨(nextCpuStep s).extra + 1, Nat.succ_pos _, ?_⟩
  exact congrArg (fun c : Schedule => { c with cycles := c.cycles + ((nextCpuStep s).extra + 1) }) hu

/-! ### With the latch in range a CPU phase completes -/

theorem psgDataRead_completes {s : State} (hs : s.psgLatch.toNat ≤ 15) : ∃ t, psgDataRead s = .next t := by
  unfold psgDataRead
  rw [if_neg (by omega)]
  split_ifs <;> exact ⟨_, rfl⟩

theorem psgDataWrite_completes {s : State} (v : Byte) (hs : s.psgLatch.toNat ≤ 15) :
    ∃ t, psgDataWrite v s = .next t := by
  unfold psgDataWrite
  rw [if_neg (by omega)]
  split_ifs <;> exact ⟨_, rfl⟩

theorem handlerRead_completes (k : Handler) {s : State} (hs : s.psgLatch.toNat ≤ 15) :
    ∃ t, handlerRead k s = .next t := by
  cases k with
  | psgData => exact psgDataRead_completes hs
  | _ => exact ⟨_, rfl⟩

theorem handlerWrite_completes (k : Handler) (v : Byte) {s : State} (hs : s.psgLatch.toNat ≤ 15) :
    ∃ t, handlerWrite k v s = .next t := by
  cases k with
  | psgData => exact psgDataWrite_completes v hs
  | _ => exact ⟨_, rfl⟩

theorem busAccess_completes (a : BusAccess) {s : State} (hs : s.psgLatch.toNat ≤ 15) :
    ∃ t, busAccess a s = .next t := by
  cases a with
  | memRead | memWrite => exact ⟨_, rfl⟩
  | portRead p =>
    simp only [busAccess, portRead]
    cases portLookup s.params.portMap p with
    | none => exact ⟨_, rfl⟩
    | some k => exact handlerRead_completes k hs
  | portWrite p v =>
    simp only [busAccess, portWrite]
    cases portLookup s.params.portMap p with
    | none => exact ⟨_, rfl⟩
    | some k => exact handlerWrite_completes k v hs

theorem cpuAct_completes (a : CpuAct) {s : State} (hs : s.psgLatch.toNat ≤ 15) :
    ∃ t, cpuAct a s = .next t ∧ t.psgLatch.toNat ≤ 15 := by
  cases a with
  | bus b =>
    obtain ⟨t, ht⟩ := busAccess_completes b hs
    exact ⟨t, ht, (busAccess_updates (A := []) b s t ht).psgLatch_le hs⟩
  | host x =>
    obtain ⟨t, ht, _⟩ := hostActInPhase_cases x s
    exact ⟨t, ht, (hostActInPhase_updates (A := [.image]) (by simp) x s t ht).psgLatch_le hs⟩

theorem cpuActs_completes (l : List CpuAct) {s : State} (hs : s.psgLatch.toNat ≤ 15) :
    ∃ t, cpuActs l s = .next t ∧ t.psgLatch.toNat ≤ 15 := by
  induction l generalizing s with
  | nil => exact ⟨s, rfl, hs⟩
  | cons a l ih =>
    obtain ⟨u, hu, hlatch⟩ := cpuAct_completes a hs
    rw [cpuActs, hu]
    exact ih hlatch

theorem cpuStep_completes {s : State} (hs : s.psgLatch.toNat ≤ 15) :
    ∃ t, cpuStep s = .next t ∧ t.psgLatch.toNat ≤ 15 := by
  obtain ⟨u, hu, hlatch⟩ := cpuActs_completes (nextCpuStep s).acts
    (s := log (.cpuStep (active s) (vector s)) (dropCpuStep s)) hs
  rw [cpuStep, hu]
  exact ⟨_, rfl, hlatch⟩

/-- With as much fuel as cycles are missing the loop ends at the boundary: each step adds at least one (R262). -/
theorem cpuLoop_completes (n : Nat) {s : State} (hs : s.psgLatch.toNat ≤ 15)
    (hfuel : s.nextBoundary - s.cycles ≤ n) : ∃ t, cpuLoop n s = .next t ∧ t.nextBoundary ≤ t.cycles := by
  induction n generalizing s with
  | zero => exact ⟨s, rfl, by omega⟩
  | succ n ih =>
    unfold cpuLoop
    split
    · obtain ⟨u, hu, hlatch⟩ := cpuStep_completes hs
      obtain ⟨k, hk, hsched⟩ := cpuStep_schedule hu
      have hcycles : u.cycles = s.cycles + k := congrArg Schedule.cycles hsched
      have hboundary : u.nextBoundary = s.nextBoundary := congrArg Schedule.nextBoundary hsched
      rw [hu]
      exact ih hlatch (by omega)
    · exact ⟨s, rfl, by omega⟩

theorem cpuPhase_completes {s : State} (hs : s.psgLatch.toNat ≤ 15) :
    ∃ t, cpuPhase s = .next t ∧ t.nextBoundary ≤ t.cycles :=
  cpuLoop_completes _ hs (le_refl _)

/-! ### The check at the end of a slice -/

@[simp] theorem housekeeping_nextBoundary (s : State) : (housekeeping s).nextBoundary = s.nextBoundary := by
  rw [housekeeping_frame]
@[simp] theorem sliceIncrement_nextBoundary (s : State) : (sliceIncrement s).nextBoundary = s.nextBoundary := rfl
@[simp] theorem renderCheck_nextBoundary (s : State) : (renderCheck s).nextBoundary = s.nextBoundary := by
  rw [renderCheck_frame]
@[simp] theorem frameCheck_nextBoundary (s : State) : (frameCheck s).nextBoundary = s.nextBoundary := by
  rw [frameCheck_frame]
@[simp] theorem frameCheck_params (s : State) : (frameCheck s).params = s.params := by rw [frameCheck_frame]
@[simp] theorem boundaryAdvance_nextBoundary (s : State) :
    (boundaryAdvance s).nextBoundary = s.nextBoundary + s.params.cyclesPerSlice := rfl
@[simp] theorem stopCheck_nextBoundary (s : State) : (stopCheck s).nextBoundary = s.nextBoundary := by
  rw [stopCheck_frame]

/-- The tail of a slice moves the boundary one slice on (R272). -/
theorem sliceTail_nextBoundary (s : State) :
    (sliceTail s).nextBoundary = s.nextBoundary + s.params.cyclesPerSlice := by
  simp [sliceTail]

/-- A slice whose phase has reached the boundary meets R49 item 6 at its end. -/
theorem sliceInvariant_sliceTail {s : State} (h : s.nextBoundary ≤ s.cycles) :
    sliceInvariant (sliceTail s) = true := by
  have htail : Updates [.sliceIndex] s (sliceTail s) := sliceTail_updates (by simp) s
  have hcycles : (sliceTail s).cycles = s.cycles := htail.cycles_eq (by simp) (by simp)
  rw [sliceInvariant, decide_eq_true_eq, sliceTail_nextBoundary, hcycles, htail.params_eq]
  exact Nat.add_le_add_right h _

/-- With the latch in range a slice is its CPU phase and its tail: the check at its end passes. -/
theorem sliceStep_completes {s : State} (hs : s.psgLatch.toNat ≤ 15) :
    ∃ u, cpuPhase s = .next u ∧ sliceStep s = .next (sliceTail u) := by
  obtain ⟨u, hu, hboundary⟩ := cpuPhase_completes hs
  refine ⟨u, hu, ?_⟩
  rw [sliceStep, hu, andThen_of_next, sliceDone, if_pos (sliceInvariant_sliceTail hboundary)]

/-! ### Every operation -/

theorem noFault_of_next {r : Result} {t : State} (h : r = .next t) : NoFault r := by
  intro e he
  rw [h] at he
  cases he

theorem noFault_loadRom (img : RawImage) (s : State) : NoFault (loadRom img s) := by
  intro e
  unfold loadRom
  repeat' split
  all_goals simp

theorem noFault_runBlock {s : State} (hs : s.psgLatch.toNat ≤ 15) : NoFault (runBlock s) := by
  obtain ⟨u, _, hslice⟩ := sliceStep_completes hs
  unfold runBlock
  split
  · exact refuse_ne_fault .noRom
  · rw [hslice]
    exact noFault_of_next rfl

/-- Only the PSG data accesses and the operations with a CPU phase can fault, and they need the latch out of range. -/
theorem noFault_exec (i : Instr) {s : State} (hs : s.psgLatch.toNat ≤ 15) : NoFault (exec i s) := by
  cases i with
  | psgDataRd =>
    obtain ⟨t, ht⟩ := psgDataRead_completes hs
    exact noFault_of_next ht
  | psgDataWr v =>
    obtain ⟨t, ht⟩ := psgDataWrite_completes v hs
    exact noFault_of_next ht
  | cpuPhase =>
    obtain ⟨t, ht, _⟩ := cpuPhase_completes hs
    exact noFault_of_next ht
  | slice =>
    obtain ⟨u, _, hslice⟩ := sliceStep_completes hs
    exact noFault_of_next hslice
  | run => exact noFault_runBlock hs
  | romLoad img => exact noFault_loadRom img s
  | insert d img => exact insertDisk_ne_fault d img s
  | eject d => exact ejectDisk_ne_fault d s
  | _ => exact noFault_of_next rfl

/-- Settles O56: an operation faults only with the latch out of range, and every update keeps the latch in range. -/
theorem noOperationIsFatalInRange : Obligations.NoOperationIsFatalInRange :=
  fun i _ hs => ⟨noFault_exec i hs, fun _ h => (exec_updates h).psgLatch_le hs⟩

end Sys2Proof.Machine
end

section
/-! The Bus Dispatcher (41_bus_dispatcher.md): what each port operation does, with its whole next state. -/

namespace Sys2Proof.Machine

/-! ### Ports that only reply or tell -/

/-- Settles O10: each of the four reads is the one read of a write-only register. -/
theorem writeOnlyPortsReadUnmappedValue : Obligations.WriteOnlyPortsReadUnmappedValue := by
  intro s
  have hread : (.next (writeOnlyRead s) : Result) =
      .next { s with trace := .reply s.params.unmappedRead :: s.trace } := rfl
  exact ⟨hread, hread, hread, hread⟩

/-- Settles O11: a port with no handler decodes to the unmapped access, which only gives a diagnostic and a reply. -/
theorem unmappedPortsChangeNothing : Obligations.UnmappedPortsChangeNothing := by
  intro q v s
  refine ⟨fun hnone => ?_, rfl, rfl⟩
  have hunmapped : portUnmapped s.params q = true := Option.isNone_iff_eq_none.2 hnone
  exact ⟨decode_unmappedRead hunmapped [], decode_unmappedWrite hunmapped v []⟩

/-! ### The control register and the parallel port -/

/-- What a strobe edge adds to the trace, for both outcomes at once (R165). -/
theorem strobeEdge_eq (old new : Byte) (s : State) :
    strobeEdge old new s = { s with
      trace := if ctrlStrobe s.params old = true ∧ ctrlStrobe s.params new = false ∧ s.params.sinkAttached = true
        then .sinkByte s.parLatch :: s.trace else s.trace } := by
  rcases strobeEdge_cases old new s with ⟨hedge, e⟩ | ⟨hnone, e⟩
  · rw [e, if_pos hedge]
  · rw [e, if_neg hnone]

/-- Settles O12: a control write is the store and then the strobe edge, which adds to the trace alone. -/
theorem controlWriteStoresAndStrobes : Obligations.ControlWriteStoresAndStrobes := by
  intro v old new s
  have hwrite := strobeEdge_eq s.ctrl v { s with ctrl := v }
  exact ⟨⟨_, congrArg Host.Outcome.next hwrite, rfl, fun _ => rfl⟩,
    congrArg Host.Outcome.next (strobeEdge_eq old new s)⟩

/-- A control write from a low STROBE has no falling edge (R165). -/
theorem ctrlWrite_of_low {s : State} (v : Byte) (hlow : ctrlStrobe s.params s.ctrl = false) :
    ctrlWrite v s = { s with ctrl := v } := by
  rw [ctrlWrite, strobeEdge, if_neg (by simp [hlow])]

/-- A control write from a high STROBE to a low one emits the latch to an attached sink (R165). -/
theorem ctrlWrite_of_falling {s : State} {v : Byte} (hhigh : ctrlStrobe s.params s.ctrl = true)
    (hlow : ctrlStrobe s.params v = false) (hsink : s.params.sinkAttached = true) :
    ctrlWrite v s = { s with ctrl := v, trace := .sinkByte s.parLatch :: s.trace } := by
  rw [ctrlWrite, strobeEdge, if_pos ⟨hhigh, hlow, hsink⟩]
  rfl

/-- Settles O13: of the three control writes only the second one is a falling edge. -/
theorem parallelByteIsEmittedOnce : Obligations.ParallelByteIsEmittedOnce := by
  intro v w c1 c0 s
  refine ⟨rfl, fun hsink hlow hhigh hlow' => ?_⟩
  have hrise : ctrlWrite c1 { s with parLatch := v } = { s with parLatch := v, ctrl := c1 } := ctrlWrite_of_low c1 hlow
  have hfall : ctrlWrite c0 { s with parLatch := v, ctrl := c1 } =
      { s with parLatch := v, ctrl := c0, trace := .sinkByte v :: s.trace } :=
    ctrlWrite_of_falling hhigh hlow' hsink
  have hstay : ctrlWrite c0 { s with parLatch := v, ctrl := c0, trace := .sinkByte v :: s.trace } =
      { s with parLatch := v, ctrl := c0, trace := .sinkByte v :: s.trace } := ctrlWrite_of_low c0 hlow'
  calc execAll [.parWr w, .parWr v, .ctrlWr c1, .ctrlWr c0, .ctrlWr c0] s
    _ = .next (ctrlWrite c0 (ctrlWrite c0 (ctrlWrite c1 { s with parLatch := v }))) := rfl
    _ = .next { s with parLatch := v, ctrl := c0, trace := .sinkByte v :: s.trace } := by rw [hrise, hfall, hstay]

/-! ### The PSG -/

/-- Settles O14, by the two things an address write can do. -/
theorem psgAddressIsLatchedInRange : Obligations.PsgAddressIsLatchedInRange := by
  intro v s
  rcases psgAddrWrite_cases v s with ⟨hle, e⟩ | ⟨hgt, e⟩
  · exact ⟨fun _ => congrArg Host.Outcome.next e, fun hgt => absurd hle (by omega)⟩
  · exact ⟨fun hle => absurd hgt (by omega), fun _ => congrArg Host.Outcome.next e⟩

section
variable {s : State}

theorem psgDataWrite_of_gt (v : Byte) (h : 15 < s.psgLatch.toNat) :
    psgDataWrite v s = raiseFatal .psgLatchRange s := if_pos h

theorem psgDataWrite_of_mask (v : Byte) (h : s.psgLatch = 14) :
    psgDataWrite v s = .next (log (.psgWrite 14 v) (maskWrite v s)) := by
  simp [psgDataWrite, h]

theorem psgDataWrite_of_other (v : Byte) (hle : s.psgLatch.toNat ≤ 15) (hne : s.psgLatch ≠ 14) :
    psgDataWrite v s = .next (log (.psgWrite s.psgLatch v) s) := by
  rw [psgDataWrite, if_neg (by omega), if_neg hne]

theorem psgDataRead_of_gt (h : 15 < s.psgLatch.toNat) : psgDataRead s = raiseFatal .psgLatchRange s := if_pos h

theorem psgDataRead_of_mask (h : s.psgLatch = 14) : psgDataRead s = .next (reply s.mask s) := by
  simp [psgDataRead, h]

theorem psgDataRead_of_mirror (h : s.psgLatch = 15) : psgDataRead s = .next (reply (portb s) s) := by
  simp [psgDataRead, h]

theorem psgDataRead_of_other (h : s.psgLatch.toNat ≤ 13) :
    psgDataRead s = .next (reply (nextByte s) (log (.psgRead s.psgLatch) (dropByte s))) := by
  rw [psgDataRead, if_neg (by omega), if_neg (by bv_omega), if_neg (by bv_omega)]

end

/-- Settles O15, by the three ranges of the latch. -/
theorem psgDataWriteFeedsTheMask : Obligations.PsgDataWriteFeedsTheMask := fun v _ =>
  ⟨psgDataWrite_of_mask v, psgDataWrite_of_other v, psgDataWrite_of_gt v⟩

/-- Settles O16, by the four ranges of the latch. -/
theorem psgDataReadReturnsMaskOrMirror : Obligations.PsgDataReadReturnsMaskOrMirror := fun _ =>
  ⟨psgDataRead_of_mask, psgDataRead_of_mirror, psgDataRead_of_other, psgDataRead_of_gt⟩

/-! ### The reads that clear a request flag -/

/-- A read that clears its flag: the flag is lowered, the line told, and the byte replied (R138). -/
theorem reply_flagClear (b : Byte) (f : Flag) (s : State) :
    reply b (flagClear f s) = { setFlag f false s with
      trace := .reply b :: (lineEvents (setFlag f false s) ++ s.trace) } := by
  rw [flagClear_eq]
  rfl

/-- Settles O17: the read clears `rx` once the modem has answered; the write is only forwarded. -/
theorem hccaReadClearsRx : Obligations.HccaReadClearsRx := fun _ s =>
  ⟨congrArg Host.Outcome.next (reply_flagClear (nextByte s) .rx (log .modemRead (dropByte s))), rfl⟩

/-- A keyboard read of an empty queue replies any byte, leaves the queue and clears `key` (R172). -/
theorem exec_kbdRd_of_empty {s : State} (h : s.kqRd = s.kqWr) :
    exec .kbdRd s = .next (reply (nextByte s) (flagClear .key (dropByte s))) :=
  congrArg Host.Outcome.next (if_pos (beq_iff_eq.2 h))

/-- Settles O18, by whether the queue is empty. -/
theorem keyboardReadPopsAndClearsKey : Obligations.KeyboardReadPopsAndClearsKey := fun _ s =>
  ⟨fun hne => (exec_kbdRd_of_not_empty hne).trans
      (congrArg Host.Outcome.next (reply_flagClear (kqHead s) .key (kqPop s))),
    fun heq => (exec_kbdRd_of_empty heq).trans
      (congrArg Host.Outcome.next (reply_flagClear (nextByte s) .key (dropByte s))),
    rfl⟩

/-- Settles O19: the status read clears `vblank` once the VDP has answered; the others are only forwarded. -/
theorem vdpStatusReadClearsVblank : Obligations.VdpStatusReadClearsVblank := fun _ s =>
  ⟨congrArg Host.Outcome.next (reply_flagClear (nextByte s) .vblank (log .vdpStatusRead (dropByte s))), rfl, rfl,
    rfl⟩

end Sys2Proof.Machine
end

section
/-! The Floppy Controller (42_floppy_controller.md): its registers and INDEX (R213 to R220, R230, R231), its two mode
changes (R211, R228), a stream from its first byte to its last (R217), the commands (R221 to R227), and the host's
INSERT and EJECT (R240 to R242). -/

namespace Sys2Proof.Machine

/-! ### Registers and INDEX -/

/-- Settles O21: each access is one reply or one stored byte. -/
theorem floppyRegistersReadAndStore : Obligations.FloppyRegistersReadAndStore := fun _ _ =>
  ⟨rfl, rfl, rfl, rfl, rfl, rfl⟩

/-- Settles O23: INDEX is the reply, and the tick touches the rotation counter alone. -/
theorem indexFollowsRotationAndDisk : Obligations.IndexFollowsRotationAndDisk := fun s =>
  ⟨rfl, indexActive s, rfl, indexActive_iff s⟩

/-! ### The two mode changes -/

/-- The status byte after ENTER_IDLE, in the three parts the statements ask for. -/
theorem enterIdle_status (s : State) :
    (enterIdle s).fdc.status.getLsbD 0 = false ∧ (enterIdle s).fdc.status.getLsbD 1 = false ∧
      ∀ j, 2 ≤ j → (enterIdle s).fdc.status.getLsbD j = s.fdc.status.getLsbD j :=
  ⟨enterIdle_bit s 0, enterIdle_bit s 1, fun j hj => (enterIdle_bit s j).trans (if_neg (by omega))⟩

/-- The status byte after LOAD_STREAM, in the same three parts. -/
theorem loadStream_status (m : Memory) (n : Nat) (s : State) :
    (loadStream m n s).fdc.status.getLsbD 0 = true ∧ (loadStream m n s).fdc.status.getLsbD 1 = true ∧
      ∀ j, 2 ≤ j → (loadStream m n s).fdc.status.getLsbD j = s.fdc.status.getLsbD j :=
  ⟨loadStream_bit m n s 0, loadStream_bit m n s 1, fun j hj => (loadStream_bit m n s j).trans (if_neg (by omega))⟩

/-- A command that starts a stream enters Idle first, which leaves no mark in the status byte (R224, R225). -/
theorem loadStream_enterIdle_status (m : Memory) (n : Nat) (s : State) :
    (loadStream m n (enterIdle s)).fdc.status.getLsbD 0 = true ∧
      (loadStream m n (enterIdle s)).fdc.status.getLsbD 1 = true ∧
      ∀ j, 2 ≤ j → (loadStream m n (enterIdle s)).fdc.status.getLsbD j = s.fdc.status.getLsbD j := by
  obtain ⟨hbusy, hdrq, hloaded⟩ := loadStream_status m n (enterIdle s)
  obtain ⟨_, _, hidle⟩ := enterIdle_status s
  exact ⟨hbusy, hdrq, fun j hj => (hloaded j hj).trans (hidle j hj)⟩

/-- The buffer a list of bytes is loaded into: the first `n` of them over what it held (R228). -/
theorem read_overlay_ofBytes (bytes : List Byte) (n : Nat) (buf : Memory) (j : Nat) :
    Memory.read (Memory.overlay (Memory.ofBytes bytes) n buf) j =
      if j < n then bytes.getD j 0 else Memory.read buf j := by
  rw [read_overlay, read_ofBytes, Memory.blank]

/-- Settles O24: the status bits and the buffer of each of the two. -/
theorem idleAndStreamEntry : Obligations.IdleAndStreamEntry := by
  intro s bytes
  obtain ⟨hbusy, hdrq, hrest⟩ := loadStream_status (Memory.ofBytes bytes) bytes.length s
  exact ⟨⟨(enterIdle s).fdc.status, rfl, enterIdle_status s⟩,
    _, _, rfl, hbusy, hdrq, hrest, read_overlay_ofBytes bytes bytes.length s.fdc.buf⟩

/-! ### Reading a stream -/

/-- A data read of an idle controller (R217). -/
theorem exec_fdcDataRd_of_idle {s : State} (hmode : s.fdc.mode = .idle) :
    exec .fdcDataRd s = .next { s with trace := .reply s.fdc.data :: s.trace } := by
  have hstay : fdcDataAdvance s = s := by simp [fdcDataAdvance, hmode]
  exact congrArg Host.Outcome.next (by rw [fdcDataRead, hstay]; rfl)

section
variable {s : State} (hmode : s.fdc.mode = .streamingRead)
include hmode

/-- A data read before the last byte of a stream (R217). -/
theorem exec_fdcDataRd_of_more (hmore : s.fdc.cursor + 1 ≠ s.fdc.len) :
    exec .fdcDataRd s = .next { s with
      fdc := { s.fdc with data := Memory.read s.fdc.buf s.fdc.cursor, cursor := s.fdc.cursor + 1 }
      trace := .reply (Memory.read s.fdc.buf s.fdc.cursor) :: s.trace } := by
  have hadv : fdcDataAdvance s = { s with fdc := { s.fdc with
      data := Memory.read s.fdc.buf s.fdc.cursor, cursor := s.fdc.cursor + 1 } } := by
    simp [fdcDataAdvance, hmode, hmore]
  exact congrArg Host.Outcome.next (by rw [fdcDataRead, hadv]; rfl)

/-- The data read of the last byte of a stream (R217). -/
theorem exec_fdcDataRd_of_last (hlast : s.fdc.cursor + 1 = s.fdc.len) :
    exec .fdcDataRd s = .next { s with
      fdc := { s.fdc with data := Memory.read s.fdc.buf s.fdc.cursor, cursor := s.fdc.cursor + 1,
                          mode := .idle, status := (enterIdle s).fdc.status, streamDrive := none }
      trace := .reply (Memory.read s.fdc.buf s.fdc.cursor) :: s.trace } := by
  have hadv : fdcDataAdvance s = enterIdle { s with fdc := { s.fdc with
      data := Memory.read s.fdc.buf s.fdc.cursor, cursor := s.fdc.cursor + 1 } } := by
    simp [fdcDataAdvance, hmode, hlast]
  exact congrArg Host.Outcome.next (by rw [fdcDataRead, hadv]; rfl)

end

/-- Settles O25, by the three cases of a data read. -/
theorem dataReadAdvancesTheStream : Obligations.DataReadAdvancesTheStream := fun s =>
  ⟨exec_fdcDataRd_of_idle, exec_fdcDataRd_of_more,
    fun hmode hlast => ⟨_, exec_fdcDataRd_of_last hmode hlast, enterIdle_status s⟩⟩

/-- The next `k` bytes of the stream, in the order the reads reply them. -/
def streamBytes (k : Nat) (s : State) : List Byte :=
  (List.range k).map fun j => Memory.read s.fdc.buf (s.fdc.cursor + j)

/-- A read more replies the byte `k` places on: it is the newest of the replies. -/
theorem streamBytes_succ_reverse (k : Nat) (s : State) :
    (streamBytes (k + 1) s).reverse = Memory.read s.fdc.buf (s.fdc.cursor + k) :: (streamBytes k s).reverse := by
  simp [streamBytes, List.range_succ]

/-- What the trace tells the callers after one reply more. -/
theorem replies_reply (b : Byte) (tr : List Event) : replies (.reply b :: tr) = b :: replies tr := rfl

section
variable {s : State} (hmode : s.fdc.mode = .streamingRead)
include hmode

/-- Reads that stop short of the last byte move the cursor and reply their bytes; the controller streams on (R217). -/
theorem repeatExec_fdcDataRd_of_more {k : Nat} (hk : s.fdc.cursor + k < s.fdc.len) :
    ∃ d tr, repeatExec k .fdcDataRd s =
        .next { s with fdc := { s.fdc with data := d, cursor := s.fdc.cursor + k }, trace := tr } ∧
      replies tr = (streamBytes k s).reverse ++ replies s.trace := by
  induction k with
  | zero => exact ⟨s.fdc.data, s.trace, rfl, rfl⟩
  | succ k ih =>
    obtain ⟨d, tr, hreads, hreplies⟩ := ih (by omega)
    refine ⟨_, _, (repeatExec_succ hreads).trans (exec_fdcDataRd_of_more hmode ?_), ?_⟩
    · exact Nat.ne_of_lt hk
    · rw [replies_reply, hreplies, streamBytes_succ_reverse]
      rfl

/-- Reads up to the last byte end the stream with that byte in `fdc.data` (R217). -/
theorem repeatExec_fdcDataRd_of_last {k : Nat} (hk : s.fdc.cursor + k + 1 = s.fdc.len) :
    ∃ tr, repeatExec (k + 1) .fdcDataRd s =
        .next { s with
          fdc := { s.fdc with data := Memory.read s.fdc.buf (s.fdc.cursor + k), cursor := s.fdc.cursor + (k + 1),
                              mode := .idle, status := (enterIdle s).fdc.status, streamDrive := none }
          trace := tr } ∧
      replies tr = (streamBytes (k + 1) s).reverse ++ replies s.trace := by
  obtain ⟨d, tr, hreads, hreplies⟩ := repeatExec_fdcDataRd_of_more hmode (k := k) (by omega)
  refine ⟨_, (repeatExec_succ hreads).trans (exec_fdcDataRd_of_last hmode hk), ?_⟩
  rw [replies_reply, hreplies, streamBytes_succ_reverse]
  rfl

end

/-- Settles O26: the reads before the last byte by induction, and then the read of the last byte. -/
theorem streamDrainsInExactlyItsLength : Obligations.StreamDrainsInExactlyItsLength := by
  intro s hmode hpos k hk
  rcases Nat.lt_or_eq_of_le hk with hmore | hend
  · obtain ⟨d, tr, hreads, hreplies⟩ := repeatExec_fdcDataRd_of_more hmode hmore
    exact ⟨_, hreads, rfl, hreplies, rfl, rfl, rfl, rfl, rfl, rfl, rfl, fun _ => ⟨hmode, rfl, rfl⟩,
      fun hend => absurd hend (Nat.ne_of_lt hmore)⟩
  · obtain ⟨m, rfl⟩ : ∃ m, k = m + 1 := Nat.exists_eq_add_one.2 (by omega)
    obtain ⟨tr, hreads, hreplies⟩ := repeatExec_fdcDataRd_of_last hmode (k := m) hend
    obtain ⟨hbusy, hdrq, _⟩ := enterIdle_status s
    have hlast : s.fdc.cursor + m = s.fdc.len - 1 := by omega
    rw [hlast] at hreads
    exact ⟨_, hreads, rfl, hreplies, rfl, rfl, rfl, rfl, rfl, rfl, rfl,
      fun hmore => absurd hend (Nat.ne_of_lt hmore),
      fun _ => ⟨rfl, hbusy, hdrq, rfl, rfl, exec_fdcDataRd_of_idle rfl⟩⟩

/-! ### The commands -/

/-- A command write is the operation of the byte's class (R96, R221). -/
theorem exec_fdcCmdWr (c : Byte) (s : State) :
    exec (.fdcCmdWr c) s = exec (classInstr (cmdClass s.params.cmdDecode c) c) s := by
  have hcommand : exec (.fdcCmdWr c) s = .next (fdcCommand c s) := rfl
  rw [hcommand, fdcCommand]
  cases cmdClass s.params.cmdDecode c <;> rfl

/-- Settles O27: the write of the byte is the operation of its class, one class at a time. -/
theorem commandWriteRunsItsClass : Obligations.CommandWriteRunsItsClass := by
  intro c s
  have hclass : ∀ k, cmdClass s.params.cmdDecode c = k → exec (.fdcCmdWr c) s = exec (classInstr k c) s :=
    fun k hk => hk ▸ exec_fdcCmdWr c s
  exact ⟨⟨fdcCommand c s, rfl⟩, hclass .restore, hclass .readSector, hclass .status, hclass .irqAck, hclass .diag,
    hclass .other⟩

/-- The status bits after RESTORE (R222). -/
theorem restoreCommand_bit (s : State) (j : Nat) :
    (restoreCommand s).fdc.status.getLsbD j = if j = 0 ∨ j = 1 ∨ j = 7 then false else s.fdc.status.getLsbD j := by
  rw [restoreCommand, enterIdle_bit, setStatus_bit _ _ _ _ (by decide), setStatus_bit _ _ _ _ (by decide)]
  grind

/-- The status bits after IRQ ACK (R226). -/
theorem irqAckCommand_bit (s : State) (j : Nat) :
    (irqAckCommand s).fdc.status.getLsbD j = if j = 0 ∨ j = 7 then false else s.fdc.status.getLsbD j := by
  rw [irqAckCommand, setStatus_bit _ _ _ _ (by decide), setStatus_bit _ _ _ _ (by decide)]
  grind

/-- Settles O28, by the status bits RESTORE and IRQ ACK leave. -/
theorem restoreAckAndOtherCommands : Obligations.RestoreAckAndOtherCommands := by
  intro c s
  have hrestore := restoreCommand_bit s
  have hack := irqAckCommand_bit s
  exact ⟨⟨_, rfl, hrestore 0, hrestore 1, hrestore 7, fun j _ _ => (hrestore j).trans (if_neg (by omega))⟩,
    ⟨_, rfl, hack 0, hack 7, fun j _ _ => (hack j).trans (if_neg (by omega))⟩, rfl⟩

/-- Settles O29: both load their bytes over the buffer; the six of the status block are read one by one. -/
theorem statusAndDiagStreamTheirBlocks : Obligations.StatusAndDiagStreamTheirBlocks := by
  intro c s
  have hblock := read_overlay_ofBytes (statusBlock s) 6 s.fdc.buf
  obtain ⟨hbusy, hdrq, hrest⟩ := loadStream_enterIdle_status (Memory.ofBytes (statusBlock s)) 6 s
  obtain ⟨hbusy', hdrq', hrest'⟩ := loadStream_enterIdle_status (Memory.ofBytes s.params.syncPattern) 38 s
  exact ⟨⟨_, _, rfl, hbusy, hdrq, hrest, hblock 0, hblock 1, hblock 2, hblock 3, hblock 4, hblock 5,
      fun j hj => (hblock j).trans (if_neg (Nat.not_lt.2 hj))⟩,
    ⟨_, _, rfl, hbusy', hdrq', hrest', read_overlay_ofBytes s.params.syncPattern 38 s.fdc.buf⟩⟩

/-! ### READ SECTOR -/

/-- The two ways READ SECTOR ends: with one error bit and a diagnostic, or with the stream of a sector (R223). -/
theorem readSectorCommand_failed_or_loaded (s : State) :
    (∃ bit d, (bit = 4 ∨ bit = 7) ∧
      readSectorCommand s = diagnose d (setStatus bit true (readSectorStart s))) ∨
    ∃ m, readSectorCommand s = loadStream m 1024 (readSectorStart s) := by
  rcases readSectorCommand_cases s with ⟨_, e⟩ | ⟨_, _, _, e⟩ | ⟨_, _, _, _, _, e⟩ | ⟨_, _, _, _, _, _, _, e⟩ |
    ⟨_, _, _, _, _, _, _, e⟩
  · exact .inl ⟨7, _, .inr rfl, e⟩
  · exact .inl ⟨7, _, .inr rfl, e⟩
  · exact .inl ⟨4, _, .inl rfl, e⟩
  · exact .inl ⟨4, _, .inl rfl, e⟩
  · exact .inr ⟨_, e⟩

/-- Only the controller and the trace have changed, and of the controller neither the registers nor the rotation. -/
structure KeepsRegisters (s t : State) : Prop where
  frame : t = { s with fdc := t.fdc, trace := t.trace }
  track : t.fdc.track = s.fdc.track
  sector : t.fdc.sector = s.fdc.sector
  data : t.fdc.data = s.fdc.data
  driveSelect : t.fdc.driveSelect = s.fdc.driveSelect
  rot : t.fdc.rot = s.fdc.rot

namespace KeepsRegisters

variable {s t : State}

theorem refl (s : State) : KeepsRegisters s s := ⟨rfl, rfl, rfl, rfl, rfl, rfl⟩

theorem trans {u : State} (h : KeepsRegisters s t) (h' : KeepsRegisters t u) : KeepsRegisters s u where
  frame := by rw [h'.frame, h.frame]
  track := h'.track.trans h.track
  sector := h'.sector.trans h.sector
  data := h'.data.trans h.data
  driveSelect := h'.driveSelect.trans h.driveSelect
  rot := h'.rot.trans h.rot

theorem diagnose (h : KeepsRegisters s t) (d : Diag) : KeepsRegisters s (diagnose d t) :=
  h.trans ⟨rfl, rfl, rfl, rfl, rfl, rfl⟩

theorem setStatus (h : KeepsRegisters s t) (i : Nat) (v : Bool) : KeepsRegisters s (setStatus i v t) :=
  h.trans ⟨rfl, rfl, rfl, rfl, rfl, rfl⟩

theorem enterIdle (h : KeepsRegisters s t) : KeepsRegisters s (enterIdle t) := h.trans ⟨rfl, rfl, rfl, rfl, rfl, rfl⟩

theorem loadStream (h : KeepsRegisters s t) (m : Memory) (n : Nat) : KeepsRegisters s (loadStream m n t) :=
  h.trans ⟨rfl, rfl, rfl, rfl, rfl, rfl⟩

end KeepsRegisters

/-- Every outcome of READ SECTOR keeps the registers, the rotation and everything outside the controller (R223). -/
theorem readSectorCommand_keepsRegisters (s : State) : KeepsRegisters s (readSectorCommand s) := by
  have hstart : KeepsRegisters s (readSectorStart s) :=
    ((KeepsRegisters.refl s).enterIdle.setStatus bitSeekErr false).setStatus bitNotReady false
  rcases readSectorCommand_failed_or_loaded s with ⟨bit, d, _, e⟩ | ⟨m, e⟩
  · rw [e]
    exact (hstart.setStatus bit true).diagnose d
  · rw [e]
    exact hstart.loadStream m 1024

/-- A failed READ SECTOR has set its one error bit; every other bit is as at the start of the checks (R223). -/
theorem failedSector_bit (s : State) {bit : Nat} (hbit : bit < 8) (d : Diag) (j : Nat) :
    (diagnose d (setStatus bit true (readSectorStart s))).fdc.status.getLsbD j =
      if j = bit then true else if j = 0 ∨ j = 1 ∨ j = 4 ∨ j = 7 then false else s.fdc.status.getLsbD j := by
  rw [diagnose_fdc, setStatus_bit _ _ _ _ hbit, readSectorStart_bit]

/-- The end of each failing check is a failure with the check's bit and diagnostic (R223). -/
theorem readSectorFailed_of_check (s : State) {bit : Nat} (hbit : bit = 4 ∨ bit = 7) (d : Diag) :
    ReadSectorFailed s (diagnose d (setStatus bit true (readSectorStart s))) bit d := by
  have hstatus := failedSector_bit s (bit := bit) (by omega) d
  exact {
    mode := rfl, streamDrive := rfl, buf := rfl, len := rfl, cursor := rfl, trace := rfl
    busy := by rw [hstatus, if_neg (by omega)]; rfl
    drq := by rw [hstatus, if_neg (by omega)]; rfl
    seekErr := by rw [hstatus]; simp [eq_comm]
    notReady := by rw [hstatus]; simp [eq_comm] }

/-- A load that sets BUSY and DRQ after the start of the checks (R223, R228). -/
theorem loadedSector_bit (s : State) (m : Memory) (n j : Nat) :
    (loadStream m n (readSectorStart s)).fdc.status.getLsbD j =
      if j = 0 ∨ j = 1 then true else if j = 4 ∨ j = 7 then false else s.fdc.status.getLsbD j := by
  rw [loadStream_bit, readSectorStart_bit]
  grind

/-- The load of a sector that passed the checks (R223). -/
theorem readSectorLoaded_of_checks {s : State} {d : DriveId} (hd : driveOf s.fdc.driveSelect = some d) (img : Image)
    (off : Nat) :
    ReadSectorLoaded s (loadStream (Memory.slice img.data off 1024) 1024 (readSectorStart s)) d img off := by
  have hstatus := loadedSector_bit s (Memory.slice img.data off 1024) 1024
  have hbuf := read_overlay (Memory.slice img.data off 1024) 1024 s.fdc.buf
  exact {
    mode := rfl, streamDrive := hd, len := rfl, cursor := rfl, trace := rfl
    buf := fun j hj => by
      rw [loadStream_buf]
      exact (hbuf j).trans (by rw [if_pos hj, read_slice, if_pos hj])
    bufAbove := fun j hj => (hbuf j).trans (if_neg (Nat.not_lt.2 hj))
    busy := hstatus 0, drq := hstatus 1, seekErr := hstatus 4, notReady := hstatus 7 }

/-- READ SECTOR leaves the four status bits that name neither mode nor error (R223). -/
theorem readSectorCommand_bit_unused (s : State) {j : Nat} (hj : j = 2 ∨ j = 3 ∨ j = 5 ∨ j = 6) :
    (readSectorCommand s).fdc.status.getLsbD j = s.fdc.status.getLsbD j := by
  rcases readSectorCommand_failed_or_loaded s with ⟨bit, d, hbit, e⟩ | ⟨m, e⟩
  · rw [e, failedSector_bit s (by omega), if_neg (by omega), if_neg (by omega)]
  · rw [e, loadedSector_bit, if_neg (by omega), if_neg (by omega)]

/-- Settles O30: what every outcome keeps, and then the five outcomes in the order of the checks. -/
theorem readSectorOutcome : Obligations.ReadSectorOutcome := by
  intro c s
  have hkeeps := readSectorCommand_keepsRegisters s
  refine ⟨readSectorCommand s, rfl, hkeeps.frame, hkeeps.track, hkeeps.sector, hkeeps.data, hkeeps.driveSelect,
    hkeeps.rot, fun _ => readSectorCommand_bit_unused s, ?_⟩
  rcases readSectorCommand_cases s with ⟨hd, e⟩ | ⟨d, hd, himg, e⟩ | ⟨d, img, hd, himg, hrange, e⟩ |
    ⟨d, img, hd, himg, hfirst, hlast, hextent, e⟩ | ⟨d, img, hd, himg, hfirst, hlast, hextent, e⟩
  · simp only [hd, e]
    exact readSectorFailed_of_check s (.inr rfl) _
  · simp only [hd, himg, e]
    exact readSectorFailed_of_check s (.inr rfl) _
  · simp only [hd, himg, e]
    rw [if_pos hrange]
    exact readSectorFailed_of_check s (.inl rfl) _
  · rw [sectorOffset] at hextent
    simp only [hd, himg, e]
    rw [if_neg (by omega), if_pos hextent]
    exact readSectorFailed_of_check s (.inl rfl) _
  · rw [sectorOffset] at hextent
    simp only [hd, himg, e]
    rw [if_neg (by omega), if_neg (Nat.not_lt.2 hextent)]
    exact readSectorLoaded_of_checks hd img _

/-- Settles O31: READ SECTOR loads the sector (O30), and the reads drain that stream of 1024 bytes (O26). -/
theorem readSectorThenReadsReturnTheImage : Obligations.ReadSectorThenReadsReturnTheImage := by
  intro c s d img hd himg hfirst hlast hextent k hk
  obtain ⟨t, ht, htframe, _, _, _, _, _, _, houtcome⟩ := readSectorOutcome c s
  simp only [hd, himg] at houtcome
  rw [if_neg (by omega), if_neg (by omega)] at houtcome
  have hcursor := houtcome.cursor
  have hlen := houtcome.len
  obtain ⟨u, hu, huframe, hreplies, _, _, _, _, _, _, _, hmore, hend⟩ :=
    streamDrainsInExactlyItsLength t houtcome.mode (by omega) k (by omega)
  have hbytes : ((List.range k).map fun j => Memory.read t.fdc.buf (t.fdc.cursor + j)) =
      (List.range k).map fun j => Memory.read img.data
        ((s.fdc.track.toNat * sectorsPerTrack s.params img.geometry + (s.fdc.sector.toNat - 1)) * 1024 + j) :=
    List.map_congr_left fun j hj => by
      rw [hcursor, Nat.zero_add]
      exact houtcome.buf j (Nat.lt_of_lt_of_le (List.mem_range.1 hj) hk)
  refine ⟨t, u, ht, hu, ?_, fun hlt => ?_, fun heq => ?_, ?_, ?_⟩
  · rw [hreplies, hbytes, houtcome.trace]
  · obtain ⟨hmode, hstatus, _⟩ := hmore (by omega)
    exact ⟨hmode, hstatus ▸ houtcome.busy, hstatus ▸ houtcome.drq⟩
  · obtain ⟨hmode, hbusy, hdrq, _⟩ := hend (by omega)
    exact ⟨hmode, hbusy, hdrq⟩
  · exact (congrArg (·.drive0) huframe).trans (congrArg (·.drive0) htframe)
  · exact (congrArg (·.drive1) huframe).trans (congrArg (·.drive1) htframe)

/-! ### INSERT and EJECT -/

/-- A length of none of the three geometries (R38). -/
theorem geometryOfSize_eq_none {n : Nat} (h200 : n ≠ 204800) (h400 : n ≠ 409600) (h800 : n ≠ 819200) :
    geometryOfSize n = none := by
  rw [geometryOfSize, if_neg h200, if_neg h400, if_neg h800]

/-- Each of the three lengths has its geometry (R38). -/
theorem exists_geometryOfSize {n : Nat} (h : n = 204800 ∨ n = 409600 ∨ n = 819200) :
    ∃ g, geometryOfSize n = some g := by
  rcases h with rfl | rfl | rfl
  exacts [⟨.ss200, rfl⟩, ⟨.ds400, rfl⟩, ⟨.ds800, rfl⟩]

@[simp] theorem geometryOfSize_geometryBytes (g : Geometry) : geometryOfSize (geometryBytes g) = some g := by
  cases g <;> rfl

section
variable {d : Byte} {dr : DriveId} {raw : RawImage} {g : Geometry} {s : State}

theorem insertDisk_of_no_drive (img : Option RawImage) (hd : driveOf d = none) :
    insertDisk d img s = refuse .noSuchDrive := by
  simp [insertDisk, hd]

theorem insertDisk_of_missing_file (hd : driveOf d = some dr) : insertDisk d none s = refuse .missingFile := by
  simp [insertDisk, hd]

theorem insertDisk_of_bad_size (hd : driveOf d = some dr) (hsize : geometryOfSize raw.size = none) :
    insertDisk d (some raw) s = refuse .imageSize := by
  simp [insertDisk, hd, hsize]

theorem insertDisk_of_occupied (hd : driveOf d = some dr) (hsize : geometryOfSize raw.size = some g)
    (hfull : driveImage dr s ≠ none) : insertDisk d (some raw) s = refuse .driveOccupied := by
  obtain ⟨img, himg⟩ := Option.ne_none_iff_exists'.1 hfull
  simp [insertDisk, hd, hsize, himg]

/-- An insertion that passes the four checks (R240). -/
theorem insertDisk_of_empty (hd : driveOf d = some dr) (hsize : geometryOfSize raw.size = some g)
    (hempty : driveImage dr s = none) : insertDisk d (some raw) s =
      .next (setDriveImage dr (some ⟨g, Memory.normalize raw.size raw.data⟩) s) := by
  simp [insertDisk, hd, hsize, hempty]

theorem ejectDisk_of_no_drive (hd : driveOf d = none) : ejectDisk d s = refuse .noSuchDrive := by
  simp [ejectDisk, hd]

theorem ejectDisk_of_empty (hd : driveOf d = some dr) (hempty : driveImage dr s = none) :
    ejectDisk d s = .next (diagnose (.driveEmpty dr) s) := by
  simp [ejectDisk, hd, hempty]

/-- Ejecting a disk: the stream ends with it only if it is a stream from this drive (R241). -/
theorem ejectDisk_of_full (hd : driveOf d = some dr) (hfull : driveImage dr s ≠ none) :
    ejectDisk d s = .next (setDriveImage dr none
      (if s.fdc.mode = .streamingRead ∧ s.fdc.streamDrive = some dr then enterIdle s else s)) := by
  obtain ⟨img, himg⟩ := Option.ne_none_iff_exists'.1 hfull
  simp only [ejectDisk, hd, himg]
  split <;> rfl

end

/-- Settles O32, one refusal for each check, and the insertion. -/
theorem insertChecksThenStoresTheImage : Obligations.InsertChecksThenStoresTheImage := by
  intro d o s
  refine ⟨insertDisk_of_no_drive o, fun dr hd =>
    ⟨insertDisk_of_missing_file (s := s) hd, fun raw => ⟨?_, fun hsize => ?_⟩⟩⟩
  · exact fun h200 h400 h800 => insertDisk_of_bad_size hd (geometryOfSize_eq_none h200 h400 h800)
  · obtain ⟨g, hg⟩ := exists_geometryOfSize hsize
    refine ⟨insertDisk_of_occupied hd hg, fun hempty => ?_⟩
    exact ⟨_, _, insertDisk_of_empty hd hg hempty, rfl, geometryBytes_of_geometryOfSize hg,
      fun a ha => read_normalize raw.data ha, driveImage_setDriveImage s dr _,
      fun e he => driveImage_setDriveImage_other s dr e _ he.symm⟩

/-- Settles O33: the stream test decides between the two ejections. -/
theorem ejectAbortsOnlyItsOwnStream : Obligations.EjectAbortsOnlyItsOwnStream := by
  intro d s
  refine ⟨ejectDisk_of_no_drive, fun dr hd =>
    ⟨ejectDisk_of_empty hd, fun hfull hother => ?_, fun hfull hmode hdrive => ?_⟩⟩
  · exact (ejectDisk_of_full hd hfull).trans (by rw [if_neg hother])
  · exact ⟨_, (ejectDisk_of_full hd hfull).trans (by rw [if_pos ⟨hmode, hdrive⟩]; rfl), enterIdle_status s⟩

/-- Settles O34: whatever the ejection does to a stream, it leaves the drive empty, and the insertion finds it so. -/
theorem ejectInsertRoundTrip : Obligations.EjectInsertRoundTrip := by
  intro d dr img s hd himg
  have hfull : driveImage dr s ≠ none := by simp [himg]
  obtain ⟨u, heject, hempty⟩ : ∃ u, exec (.eject d) s = .next u ∧ driveImage dr u = none :=
    ⟨_, ejectDisk_of_full hd hfull, driveImage_setDriveImage _ dr none⟩
  have hinsert : exec (.insert d (some ⟨geometryBytes img.geometry, img.data⟩)) u = .next (setDriveImage dr
      (some ⟨img.geometry, Memory.normalize (geometryBytes img.geometry) img.data⟩) u) :=
    insertDisk_of_empty hd (geometryOfSize_geometryBytes img.geometry) hempty
  refine ⟨_, ⟨img.geometry, Memory.normalize (geometryBytes img.geometry) img.data⟩, ?_,
    driveImage_setDriveImage u dr _, rfl, fun a ha => read_normalize img.data ha⟩
  simp only [execAll, heject, hinsert, andThen_of_next]

end Sys2Proof.Machine
end

section
/-! The Scheduler (43_scheduler.md): what each of its steps does, with its whole next state, and the CPU phase, the
slice and the run that are built from them. -/

namespace Sys2Proof.Machine

/-! ### The keyboard queue and the watchdog -/

/-- The queue is empty iff its indices are equal (R40). -/
theorem kqEmpty_iff (s : State) : kqEmpty s = true ↔ s.kqRd = s.kqWr := beq_iff_eq

theorem kqEmpty_eq_false_iff (s : State) : kqEmpty s = false ↔ s.kqRd ≠ s.kqWr := beq_eq_false_iff_ne

/-- Settles O46: a push is one write of the ring, read back at the write index and nowhere else. -/
theorem keyPushStoresOneByte : Obligations.KeyPushStoresOneByte := fun b s hwf =>
  ⟨Memory.write s.kq s.kqWr.toNat b, rfl, read_write_same hwf _ b, fun _ ha => read_write_other s.kq b ha⟩

section
variable {s : State}

/-- At the threshold the watchdog injects the keep-alive code (R268). -/
theorem watchdog_of_threshold (hempty : s.kqRd = s.kqWr) (hcount : s.kbdIdle + 1 = s.params.watchdogSlices) :
    watchdog s = { s with
      kq := Memory.write s.kq s.kqWr.toNat s.params.keepaliveCode
      kqWr := s.kqWr + 1
      kbdIdle := 0 } := by
  rw [watchdog, if_pos ((kqEmpty_iff s).2 hempty), if_pos hcount]
  rfl

/-- Off the threshold the watchdog only counts (R268). -/
theorem watchdog_of_counting (hempty : s.kqRd = s.kqWr) (hcount : s.kbdIdle + 1 ≠ s.params.watchdogSlices) :
    watchdog s = { s with kbdIdle := s.kbdIdle + 1 } := by
  rw [watchdog, if_pos ((kqEmpty_iff s).2 hempty), if_neg hcount]

/-- A queue that is not empty resets the count (R268). -/
theorem watchdog_of_not_empty (hwaiting : s.kqRd ≠ s.kqWr) : watchdog s = { s with kbdIdle := 0 } := by
  rw [watchdog, if_neg (by simpa [kqEmpty_iff] using hwaiting)]

/-- Watchdog steps that stop short of the threshold only count (R281). -/
theorem repeatExec_watchdog_of_counting (hempty : s.kqRd = s.kqWr) {k : Nat}
    (hk : s.kbdIdle + k < s.params.watchdogSlices) :
    repeatExec k .watchdog s = .next { s with kbdIdle := s.kbdIdle + k } := by
  induction k with
  | zero => rfl
  | succ k ih =>
    have hne : s.kbdIdle + k + 1 ≠ s.params.watchdogSlices := Nat.ne_of_lt hk
    calc repeatExec (k + 1) .watchdog s
      _ = .next (watchdog { s with kbdIdle := s.kbdIdle + k }) := repeatExec_succ (ih (by omega))
      _ = .next { s with kbdIdle := s.kbdIdle + (k + 1) } :=
        congrArg Host.Outcome.next (watchdog_of_counting hempty hne)

/-- The watchdog step that reaches the threshold is the one that injects (R281). -/
theorem repeatExec_watchdog_of_threshold (hempty : s.kqRd = s.kqWr) {k : Nat}
    (hk : s.kbdIdle + k + 1 = s.params.watchdogSlices) :
    repeatExec (k + 1) .watchdog s = .next { s with
      kq := Memory.write s.kq s.kqWr.toNat s.params.keepaliveCode
      kqWr := s.kqWr + 1
      kbdIdle := 0 } :=
  calc repeatExec (k + 1) .watchdog s
    _ = .next (watchdog { s with kbdIdle := s.kbdIdle + k }) :=
      repeatExec_succ (repeatExec_watchdog_of_counting hempty (by omega))
    _ = _ := congrArg Host.Outcome.next (watchdog_of_threshold hempty hk)

end

/-- Settles O39, by the three cases of the watchdog. -/
theorem watchdogCountsAndInjects : Obligations.WatchdogCountsAndInjects := fun _ =>
  ⟨fun hempty hcount => congrArg Host.Outcome.next (watchdog_of_threshold hempty hcount),
    fun hempty hcount => congrArg Host.Outcome.next (watchdog_of_counting hempty hcount),
    fun hwaiting => congrArg Host.Outcome.next (watchdog_of_not_empty hwaiting)⟩

/-- Settles O40: the steps below the threshold only count, and the one that reaches it injects. -/
theorem watchdogInjectsOnceAtThreshold : Obligations.WatchdogInjectsOnceAtThreshold := by
  intro s hempty hidle hpos hwf
  obtain ⟨n, hn⟩ : ∃ n, s.params.watchdogSlices = n + 1 := Nat.exists_eq_add_one.2 hpos
  refine ⟨fun k hk => ?_, Memory.write s.kq s.kqWr.toNat s.params.keepaliveCode, ?_,
    read_write_same hwf _ _, fun _ ha => read_write_other s.kq _ ha⟩
  · simpa [hidle] using repeatExec_watchdog_of_counting hempty (k := k) (by omega)
  · rw [hn]
    exact repeatExec_watchdog_of_threshold hempty (by omega)

/-! ### Housekeeping -/

/-- Settles O37: the model's housekeeping is the composition of the four steps. -/
theorem housekeepingRunsFourSteps : Obligations.HousekeepingRunsFourSteps := fun s => ⟨housekeeping s, rfl, rfl⟩

section
variable {s : State}

/-- With bytes reported the poll sets `rx` and tells the line (R266). -/
theorem rxPoll_of_bytes (h : nextBool s = true) : rxPoll s = { s with
    answers := withoutBool s.answers
    rx := true
    trace := lineEvents { s with rx := true } ++ .modemPoll :: s.trace } := by
  rw [rxPoll, if_pos h]
  exact flagSet_eq .rx _

theorem rxPoll_of_no_bytes (h : nextBool s = false) : rxPoll s = { s with
    answers := withoutBool s.answers
    trace := .modemPoll :: s.trace } := by
  rw [rxPoll, if_neg (by simp [h])]
  rfl

/-- A waiting key with `key` clear is promoted, and the line told (R267). -/
theorem keyPromote_of_waiting (hwaiting : s.kqRd ≠ s.kqWr) (hkey : s.key = false) :
    keyPromote s = { s with key := true, trace := lineEvents { s with key := true } ++ s.trace } := by
  rw [keyPromote, if_pos ⟨(kqEmpty_eq_false_iff s).2 hwaiting, hkey⟩]
  exact flagSet_eq .key s

theorem keyPromote_of_empty_or_key (h : s.kqRd = s.kqWr ∨ s.key = true) : keyPromote s = s := by
  refine if_neg fun ⟨hwaiting, hkey⟩ => ?_
  rcases h with hempty | hset
  · exact (kqEmpty_eq_false_iff s).1 hwaiting hempty
  · simp [hset] at hkey

end

/-- Settles O38, by the two outcomes of each of the two steps. -/
theorem pollAndPromoteSetTheirFlags : Obligations.PollAndPromoteSetTheirFlags := fun _ =>
  ⟨fun h => congrArg Host.Outcome.next (rxPoll_of_bytes h),
    fun h => congrArg Host.Outcome.next (rxPoll_of_no_bytes h),
    fun hwaiting hkey => congrArg Host.Outcome.next (keyPromote_of_waiting hwaiting hkey),
    fun h => congrArg Host.Outcome.next (keyPromote_of_empty_or_key h)⟩

/-! ### The parts of a slice after housekeeping -/

/-- What a render check adds to the trace, in the visible region and outside it at once (R270). -/
theorem renderCheck_eq (s : State) : renderCheck s = { s with
    trace := if s.params.visibleFirst ≤ s.slice ∧ s.slice < s.params.visibleFirst + s.params.visibleCount
      then .renderRow s.slice :: s.trace else s.trace } := by
  unfold renderCheck
  split <;> rfl

section
variable {s : State}

theorem frameCheck_of_inside (h : s.slice ≠ s.params.slicesPerFrame) : frameCheck s = s := if_neg h

/-- At the frame's end with vblank-enable clear the frame wraps and no flag is set (R271). -/
theorem frameCheck_of_end_disabled (hend : s.slice = s.params.slicesPerFrame) (hvdp : nextBool s = false) :
    frameCheck s = { s with
      slice := 0
      answers := withoutBool s.answers
      trace := .vdpVblankEnable :: .frameComplete :: s.trace } := by
  rw [frameCheck, if_pos hend, if_neg (by simp [hvdp])]
  rfl

/-- At the frame's end with vblank-enable set `vblank` is set as well, and the line told (R271). -/
theorem frameCheck_of_end_enabled (hend : s.slice = s.params.slicesPerFrame) (hvdp : nextBool s = true) :
    frameCheck s = { s with
      slice := 0
      answers := withoutBool s.answers
      vblank := true
      trace := lineEvents { s with vblank := true } ++ .vdpVblankEnable :: .frameComplete :: s.trace } := by
  have hline : lineEvents { s with vblank := true } = lineEvents (setFlag .vblank true
      (log .vdpVblankEnable (dropBool (log .frameComplete { s with slice := 0 })))) := lineEvents_congr rfl
  rw [frameCheck, if_pos hend, if_pos hvdp, flagSet_eq, hline]
  simp only [setFlag, log, dropBool]

theorem stopCheck_of_stop (h : s.stop = true) : stopCheck s = { s with runState := .ended } := if_pos h

theorem stopCheck_of_no_stop (h : s.stop = false) : stopCheck s = s := if_neg (by simp [h])

end

/-- Settles O41, by the three cases of the frame check. -/
theorem sliceIndexFrameAndBoundary : Obligations.SliceIndexFrameAndBoundary := fun s =>
  ⟨rfl, rfl, congrArg Host.Outcome.next (renderCheck_eq s),
    fun hinside => congrArg Host.Outcome.next (frameCheck_of_inside hinside),
    fun hend hvdp => congrArg Host.Outcome.next (frameCheck_of_end_disabled hend hvdp),
    fun hend hvdp => congrArg Host.Outcome.next (frameCheck_of_end_enabled hend hvdp)⟩

/-- Settles O44, by the two values of `stop`. -/
theorem stopEndsTheRunAtTheCheck : Obligations.StopEndsTheRunAtTheCheck := fun _ =>
  ⟨rfl, fun h => congrArg Host.Outcome.next (stopCheck_of_stop h),
    fun h => congrArg Host.Outcome.next (stopCheck_of_no_stop h)⟩

/-! ### The CPU phase -/

/-- At or past the boundary the loop takes no step, whatever its fuel (R262). -/
theorem cpuLoop_of_boundary (n : Nat) {s : State} (h : s.nextBoundary ≤ s.cycles) : cpuLoop n s = .next s := by
  cases n with
  | zero => rfl
  | succ n => exact if_neg (Nat.not_lt.2 h)

/-- A CPU step is taken before the boundary, with one unit of fuel (R262). -/
theorem cpuLoop_succ_of_lt (n : Nat) {s : State} (h : s.cycles < s.nextBoundary) :
    cpuLoop (n + 1) s = andThen (cpuStep s) (cpuLoop n) := if_pos h

/-- Two continuations that agree wherever the first operation ends give the same outcome. -/
theorem andThen_congr {r : Result} {f g : State → Result} (h : ∀ t, r = .next t → f t = g t) :
    andThen r f = andThen r g := by
  cases r with
  | next t => exact h t rfl
  | fault e | refused e => rfl

/-- A CPU step comes nearer to the boundary, which stays where it is (R262). -/
theorem cpuStep_advances {s t : State} (h : cpuStep s = .next t) :
    s.cycles < t.cycles ∧ t.nextBoundary = s.nextBoundary := by
  obtain ⟨n, hn, hsched⟩ := cpuStep_schedule h
  have hcycles : t.cycles = s.cycles + n := congrArg Schedule.cycles hsched
  exact ⟨by omega, congrArg Schedule.nextBoundary hsched⟩

/-- Fuel for the missing cycles is enough: more of it changes nothing, for each step adds at least one cycle (R262). -/
theorem cpuLoop_congr_fuel {m n : Nat} {s : State} (hm : s.nextBoundary - s.cycles ≤ m)
    (hn : s.nextBoundary - s.cycles ≤ n) : cpuLoop m s = cpuLoop n s := by
  induction m generalizing n s with
  | zero =>
    have hpast : s.nextBoundary ≤ s.cycles := by omega
    rw [cpuLoop_of_boundary 0 hpast, cpuLoop_of_boundary n hpast]
  | succ m ih =>
    rcases Nat.lt_or_ge s.cycles s.nextBoundary with hbefore | hpast
    · obtain ⟨n, rfl⟩ : ∃ j, n = j + 1 := Nat.exists_eq_add_one.2 (by omega)
      rw [cpuLoop_succ_of_lt m hbefore, cpuLoop_succ_of_lt n hbefore]
      refine andThen_congr fun t ht => ?_
      obtain ⟨hcycles, hboundary⟩ := cpuStep_advances ht
      exact ih (by omega) (by omega)
    · rw [cpuLoop_of_boundary _ hpast, cpuLoop_of_boundary n hpast]

theorem cpuPhase_of_boundary {s : State} (h : s.nextBoundary ≤ s.cycles) : cpuPhase s = .next s :=
  cpuLoop_of_boundary _ h

/-- The loop equation of the CPU phase, free of fuel (R262). -/
theorem cpuPhase_of_lt {s : State} (h : s.cycles < s.nextBoundary) :
    cpuPhase s = andThen (cpuStep s) cpuPhase := by
  obtain ⟨n, hn⟩ : ∃ n, s.nextBoundary - s.cycles = n + 1 := Nat.exists_eq_add_one.2 (by omega)
  rw [cpuPhase, hn, cpuLoop_succ_of_lt n h]
  refine andThen_congr fun t ht => ?_
  obtain ⟨hcycles, hboundary⟩ := cpuStep_advances ht
  exact cpuLoop_congr_fuel (by omega) (le_refl _)

/-- A CPU phase moves only the cycle counter of the scheduler's part (R262). -/
theorem cpuPhase_schedule {s t : State} (h : cpuPhase s = .next t) :
    schedule t = { schedule s with cycles := t.cycles } := by
  have hkeep : ∀ u v, schedule v = schedule u → schedule u = { schedule s with cycles := u.cycles } →
      schedule v = { schedule s with cycles := v.cycles } := by
    intro u v hv hu
    have hcycles : v.cycles = u.cycles := congrArg Schedule.cycles hv
    rw [hv, hu, hcycles]
  exact cpuPhase_keeps (P := fun u => schedule u = { schedule s with cycles := u.cycles })
    (fun _ u v hbus => hkeep u v (busAccess_schedule hbus))
    (fun _ u v hhost => hkeep u v (hostActInPhase_schedule hhost))
    (fun u => hkeep u _ rfl)
    (fun u n hu => congrArg (fun c : Schedule => { c with cycles := u.cycles + n }) hu)
    s t h rfl

/-- Settles O36: the loop equation, and what a phase that completes keeps. -/
theorem cpuPhaseReachesTheBoundary : Obligations.CpuPhaseReachesTheBoundary := by
  intro s hs
  refine ⟨cpuPhase_of_boundary, cpuPhase_of_lt, ?_⟩
  obtain ⟨t, ht, hboundary⟩ := cpuPhase_completes hs
  have hupdates : Updates [.image, .clock] s t := cpuPhase_updates (by simp) (by simp) ht
  have hsched := cpuPhase_schedule ht
  obtain ⟨hrom, hsize⟩ := hupdates.rom_eq (by simp)
  exact ⟨t, ht, hboundary, hupdates.cycles_le (by simp), hupdates.psgLatch_le hs,
    congrArg Schedule.nextBoundary hsched, congrArg Schedule.slice hsched, congrArg Schedule.kbdIdle hsched,
    congrArg Schedule.rot hsched, hrom, hsize, congrArg Schedule.params hsched, congrArg Schedule.input hsched,
    congrArg Schedule.runState hsched, congrArg Schedule.faulted hsched⟩

/-! ### The slice and the run -/

/-- The tail of a slice is its six parts, in the order of R261. -/
theorem execAll_sliceTail (s : State) :
    execAll [.housekeeping, .sliceIncrement, .renderCheck, .frameCheck, .boundaryAdvance, .stopCheck] s =
      .next (sliceTail s) := rfl

/-- R49 item 6 holds after a slice: it is the check at the slice's end. -/
theorem sliceStep_boundary {s t : State} (h : sliceStep s = .next t) :
    t.nextBoundary ≤ t.cycles + t.params.cyclesPerSlice := by
  obtain ⟨_, _, rfl, hcheck⟩ := sliceStep_eq_next h
  exact of_decide_eq_true hcheck

/-- Settles O42: the phase leaves the boundary, the tail moves it, and the check at the slice's end is item 6. -/
theorem sliceRunsItsPartsInOrder : Obligations.SliceRunsItsPartsInOrder := by
  intro s hs
  obtain ⟨u, hu, hslice⟩ := sliceStep_completes hs
  have hsched := cpuPhase_schedule hu
  have hmoved : (sliceTail u).nextBoundary = s.nextBoundary + s.params.cyclesPerSlice := by
    have hboundary : u.nextBoundary = s.nextBoundary := congrArg Schedule.nextBoundary hsched
    have hparams : u.params = s.params := congrArg Schedule.params hsched
    rw [sliceTail_nextBoundary, hboundary, hparams]
  exact ⟨u, sliceTail u, hu, execAll_sliceTail u, hslice, hmoved, sliceStep_boundary hslice⟩

/-- A slice that did not end the run leaves it going (R275). -/
theorem runOn_of_not_ended {s : State} (h : s.runState ≠ .ended) : runOn s = { s with runState := .running } := by
  unfold runOn
  split
  · exact absurd ‹_› h
  · rfl

theorem runOn_of_ended {s : State} (h : s.runState = .ended) : runOn s = s := by
  simp [runOn, h]

/-- With a ROM loaded a run is a slice, and then goes on or has ended (R275, R322). -/
theorem runBlock_of_slice {s u : State} (hrom : s.romSize ≠ .unloaded) (hslice : sliceStep s = .next u) :
    runBlock s = .next (runOn u) := by
  rw [runBlock, if_neg hrom, hslice, andThen_of_next]

/-- With nothing pending a run that is going turns to its next slice (R275). -/
theorem pending_of_running {s : State} (hinput : s.input = []) (hrun : s.runState = .running) :
    pending s = checked .slice s := by
  simp [pending, hinput, hrun]

/-- Settles O45: a run is a slice and what it leaves of the run, and the next iteration is the turn of a running
machine. -/
theorem runIsARepeatedSlice : Obligations.RunIsARepeatedSlice := by
  intro s
  refine ⟨fun hrom => if_pos hrom, fun hrom hs => ?_, fun hfault hparams hrun hinput hinv hbetween => ?_⟩
  · obtain ⟨u, _, hslice⟩ := sliceStep_completes hs
    have hblock : exec .run s = .next (runOn (sliceTail u)) := runBlock_of_slice hrom hslice
    refine ⟨sliceTail u, hslice, fun hended => ?_, fun hgoing => ?_⟩
    · rw [hblock, runOn_of_ended hended]
    · rw [hblock, runOn_of_not_ended hgoing]
  · have hturn : turn s = .exec .slice s := calc
      turn s = pending s := turn_eq_pending hfault hparams (by simp [hrun])
      _ = checked .slice s := pending_of_running hinput hrun
      _ = .exec .slice s := checked_of_ok hinv (sliceStartOk_iff.2 fun _ => hbetween)
    exact step_of_turn_exec hturn

end Sys2Proof.Machine
end

section
/-! RESET and ROM_LOAD (70_reset_and_hazards.md): the reset state on the host's ROM, drives and parameters, with the
line driven inactive (R320), and the two lengths of a ROM image (R322). -/

namespace Sys2Proof.Machine

/-! ### RESET -/

/-- A mask of 0 lets no request through (R131). -/
theorem requests_of_mask_eq_zero {s : State} (h : s.mask = 0) : requests s = 0 := by
  rw [requests, h]
  exact BitVec.and_zero

/-- A recompute with no gated request drives the line inactive and port B with 0 (R136). -/
theorem recompute_of_requests_eq_zero {s : State} (h : requests s = 0) :
    recompute s = { s with trace := .psgPortB 0x00 :: .irqLine false 0 :: s.trace } := by
  obtain ⟨hactive, hvector, hportb⟩ := outputs_of_requests_eq_zero h
  rw [recompute, hactive, hvector, hportb]
  rfl

/-- RESET is a return to `State.reset`, but for the host's ROM, drives and parameters, what is pending or was told,
and the two calls that drive the line inactive (R320, log entry 18). -/
theorem resetBlock_eq (s : State) : resetBlock s = { State.reset with
    ram := s.params.initRam
    rom := s.rom
    romSize := s.romSize
    drive0 := s.drive0
    drive1 := s.drive1
    nextBoundary := s.params.cyclesPerSlice
    params := s.params
    input := s.input
    answers := s.answers
    trace := .psgPortB 0x00 :: .irqLine false 0 :: s.trace } :=
  recompute_of_requests_eq_zero (requests_of_mask_eq_zero rfl)

/-- Settles O52: the fields are those of `State.reset` by `resetBlock_eq`, the empty arrays read blank, and a mask of
0 leaves the outputs inactive. -/
theorem resetPutsEveryFieldAtItsValue : Obligations.ResetPutsEveryFieldAtItsValue := by
  intro s
  have hrequests : requests (resetBlock s) = 0 := requests_of_mask_eq_zero rfl
  obtain ⟨hactive, hvector, hportb⟩ := outputs_of_requests_eq_zero hrequests
  rw [resetBlock_eq] at hactive hvector hportb
  exact ⟨_, congrArg Host.Outcome.next (resetBlock_eq s), rfl, rfl, rfl, rfl, rfl, rfl, rfl, rfl, rfl, rfl, rfl, rfl,
    rfl, rfl, rfl, read_nil, rfl, rfl, rfl, rfl, read_nil, rfl, rfl, rfl, rfl, rfl, rfl, rfl, rfl, rfl, rfl, rfl, rfl,
    rfl, hactive, hvector, hportb, rfl⟩

/-! ### ROM_LOAD -/

/-- A length of neither ROM size (R322). -/
theorem romSizeOf_eq_none {n : Nat} (h4 : n ≠ 4096) (h8 : n ≠ 8192) : romSizeOf n = none := by
  rw [romSizeOf, if_neg h4, if_neg h8]

/-- Each of the two lengths has its ROM size, which counts that many bytes (R22, R322). -/
theorem exists_romSizeOf {n : Nat} (h : n = 4096 ∨ n = 8192) : ∃ z, romSizeOf n = some z ∧ romBytes z = n := by
  rcases h with rfl | rfl
  exacts [⟨.kib4, rfl, rfl⟩, ⟨.kib8, rfl, rfl⟩]

section
variable {img : RawImage} {s : State}

theorem loadRom_of_started (hrun : s.runState ≠ .notStarted) : loadRom img s = refuse .romAfterStart := if_pos hrun

theorem loadRom_of_bad_size (hrun : s.runState = .notStarted) (hsize : romSizeOf img.size = none) :
    loadRom img s = refuse .romSize := by
  simp [loadRom, hrun, hsize]

/-- A load that passes the two checks (R322). -/
theorem loadRom_of_size {z : RomSize} (hrun : s.runState = .notStarted) (hsize : romSizeOf img.size = some z) :
    loadRom img s = .next { s with
      rom := Memory.overlay (Memory.normalize img.size img.data) img.size s.rom, romSize := z } := by
  simp [loadRom, hrun, hsize]

end

/-- What an image laid over an array reads: below its length the image's own bytes, from there on the array's. -/
theorem read_overlay_normalize (size : Nat) (data old : Memory) (a : Nat) :
    Memory.read (Memory.overlay (Memory.normalize size data) size old) a =
      if a < size then Memory.read data a else Memory.read old a := by
  rw [read_overlay]
  exact if_ctx_congr Iff.rfl (read_normalize data) fun _ => rfl

/-- Settles O51, one refusal for each check, and the load. -/
theorem romLoadAcceptsTwoSizes : Obligations.RomLoadAcceptsTwoSizes := by
  intro img s
  refine ⟨loadRom_of_started, fun hrun h4 h8 => ?_, fun hrun hsize => ?_⟩
  · exact loadRom_of_bad_size hrun (romSizeOf_eq_none h4 h8)
  · obtain ⟨z, hz, hbytes⟩ := exists_romSizeOf hsize
    exact ⟨_, z, loadRom_of_size hrun hz, hbytes, read_overlay_normalize img.size img.data s.rom⟩

end Sys2Proof.Machine
end
